-- ==== Sys2Proof/Word.lean ====
section
/-! DEFINITION. The two widths of the machine (00_scope.md R5): the 8-bit data byte and the 16-bit address,
and the 32-bit offset a mapper answers (20_memory.md R70). -/

namespace Sys2Proof

/-- A data byte; the width of A, X, Y, SP and P (R5). -/
abbrev Byte := BitVec 8

/-- A 16-bit CPU or PPU address; the width of PC (R5). -/
abbrev Word := BitVec 16

/-- The translated offset of a mapper, 32 bits (R5, R70). -/
abbrev Offset := BitVec 32

end Sys2Proof
end

