-- ==== Sys2Proof/Syntax.lean ====
section
/-! DEFINITION. The instructions as syntax: the 12 addressing-mode tags (30_encoding.md R102), an operand form
with its bytes (R101, R104), the operation tags of the decode table (R105), and `Instr`, with one constructor per
mnemonic of `spec/opcode_table.json` whose argument is the operand form the row's addressing mode gives it
(notes/assumptions/1.md); `undefined` stands for the 74 rows `UNDEFINED`. -/

namespace Sys2Proof

/-- The 12 addressing-mode tags (30_encoding.md R102). -/
inductive Mode
  | imp | imm | zp0 | zpx | zpy | rel | abs | abx | aby | ind | izx | izy
deriving DecidableEq, Repr

/-- How many operand bytes follow the opcode: formats F1, F2, F3 (30_encoding.md R101, R102). -/
def Mode.operandBytes : Mode → Nat
  | .imp => 0
  | .imm | .zp0 | .zpx | .zpy | .rel | .izx | .izy => 1
  | .abs | .abx | .aby | .ind => 2

/-- An operand form with the bytes the instruction carries for it: `b1` of format F2, `lo` and `hi` of format F3
(30_encoding.md R101). -/
inductive Operand
  | imp
  | imm (b1 : Byte)
  | zp0 (b1 : Byte)
  | zpx (b1 : Byte)
  | zpy (b1 : Byte)
  | rel (b1 : Byte)
  | abs (lo hi : Byte)
  | abx (lo hi : Byte)
  | aby (lo hi : Byte)
  | ind (lo hi : Byte)
  | izx (b1 : Byte)
  | izy (b1 : Byte)
deriving DecidableEq, Repr

/-- The addressing-mode tag of an operand form. -/
def Operand.mode : Operand → Mode
  | .imp => .imp
  | .imm _ => .imm
  | .zp0 _ => .zp0
  | .zpx _ => .zpx
  | .zpy _ => .zpy
  | .rel _ => .rel
  | .abs _ _ => .abs
  | .abx _ _ => .abx
  | .aby _ _ => .aby
  | .ind _ _ => .ind
  | .izx _ => .izx
  | .izy _ => .izy

/-- The operation tags of the decode table: the 56 official mnemonics and the five undocumented ones
(30_encoding.md R105, R108). -/
inductive Op
  | lda | ldx | ldy | sta | stx | sty | tax | tay | txa | tya | tsx | txs
  | and | ora | eor | bit
  | adc | sbc | cmp | cpx | cpy | inc | dec | inx | iny | dex | dey
  | asl | lsr | rol | ror
  | bcc | bcs | beq | bne | bmi | bpl | bvc | bvs
  | jmp | jsr | rts
  | pha | pla | php | plp | clc | sec | cli | sei | cld | sed | clv
  | brk | rti | nop
  | lax | sax | dcp | isb | slo
deriving DecidableEq, Repr

/-- A row of the decode table: the record `(operation, mode, base_cycles)` at an opcode byte
(30_encoding.md R105); the mnemonic is the operation's. -/
structure DecodeEntry where
  opcode : Byte
  op : Op
  mode : Mode
  cycles : Nat
deriving DecidableEq, Repr

/-- The instructions. An instruction with several addressing modes takes its operand form as an argument; a branch
takes its offset byte, JSR its two address bytes, an implied instruction nothing. -/
inductive Instr
  /-- LDA, load accumulator (R161). -/
  | lda (m : Operand)
  /-- LDX, load X (R162). -/
  | ldx (m : Operand)
  /-- LDY, load Y (R163). -/
  | ldy (m : Operand)
  /-- STA, store accumulator (R164). -/
  | sta (m : Operand)
  /-- STX, store X (R165). -/
  | stx (m : Operand)
  /-- STY, store Y (R166). -/
  | sty (m : Operand)
  /-- TAX, A to X (R167). -/
  | tax
  /-- TAY, A to Y (R168). -/
  | tay
  /-- TXA, X to A (R169). -/
  | txa
  /-- TYA, Y to A (R170). -/
  | tya
  /-- TSX, SP to X (R171). -/
  | tsx
  /-- TXS, X to SP (R172). -/
  | txs
  /-- AND, and with the accumulator (R180). -/
  | and (m : Operand)
  /-- ORA, or with the accumulator (R181). -/
  | ora (m : Operand)
  /-- EOR, exclusive or with the accumulator (R182). -/
  | eor (m : Operand)
  /-- BIT, bit test (R183). -/
  | bit (m : Operand)
  /-- ADC, add with carry (R192). -/
  | adc (m : Operand)
  /-- SBC, subtract with carry (R193). -/
  | sbc (m : Operand)
  /-- CMP, compare accumulator (R195). -/
  | cmp (m : Operand)
  /-- CPX, compare X (R196). -/
  | cpx (m : Operand)
  /-- CPY, compare Y (R197). -/
  | cpy (m : Operand)
  /-- INC, increment memory (R198). -/
  | inc (m : Operand)
  /-- DEC, decrement memory (R199). -/
  | dec (m : Operand)
  /-- INX, increment X (R200). -/
  | inx
  /-- INY, increment Y (R201). -/
  | iny
  /-- DEX, decrement X (R202). -/
  | dex
  /-- DEY, decrement Y (R203). -/
  | dey
  /-- ASL, arithmetic shift left (R211). -/
  | asl (m : Operand)
  /-- LSR, logical shift right (R212). -/
  | lsr (m : Operand)
  /-- ROL, rotate left through carry (R213). -/
  | rol (m : Operand)
  /-- ROR, rotate right through carry (R214). -/
  | ror (m : Operand)
  /-- BCC, branch on carry clear (R221). -/
  | bcc (off : Byte)
  /-- BCS, branch on carry set (R222). -/
  | bcs (off : Byte)
  /-- BEQ, branch on equal (R223). -/
  | beq (off : Byte)
  /-- BNE, branch on not equal (R224). -/
  | bne (off : Byte)
  /-- BMI, branch on minus (R225). -/
  | bmi (off : Byte)
  /-- BPL, branch on plus (R226). -/
  | bpl (off : Byte)
  /-- BVC, branch on overflow clear (R227). -/
  | bvc (off : Byte)
  /-- BVS, branch on overflow set (R228). -/
  | bvs (off : Byte)
  /-- JMP, jump, absolute (R235) or indirect (R236). -/
  | jmp (m : Operand)
  /-- JSR, jump to subroutine (R237). -/
  | jsr (lo hi : Byte)
  /-- RTS, return from subroutine (R238). -/
  | rts
  /-- PHA, push accumulator (R245). -/
  | pha
  /-- PLA, pull accumulator (R246). -/
  | pla
  /-- PHP, push processor status (R247). -/
  | php
  /-- PLP, pull processor status (R248). -/
  | plp
  /-- CLC, clear C (R249). -/
  | clc
  /-- SEC, set C (R250). -/
  | sec
  /-- CLI, clear I (R251). -/
  | cli
  /-- SEI, set I (R252). -/
  | sei
  /-- CLD, clear D (R253). -/
  | cld
  /-- SED, set D (R254). -/
  | sed
  /-- CLV, clear V (R255). -/
  | clv
  /-- BRK, software interrupt (R265). -/
  | brk
  /-- RTI, return from interrupt (R268). -/
  | rti
  /-- NOP, no operation (R270). -/
  | nop
  /-- LAX, load A and X (R276). -/
  | lax (m : Operand)
  /-- SAX, store A and X (R277). -/
  | sax (m : Operand)
  /-- DCP, decrement memory then compare (R278). -/
  | dcp (m : Operand)
  /-- ISB, increment memory then subtract (R279). -/
  | isb (m : Operand)
  /-- SLO, shift memory left then or (R280). -/
  | slo (m : Operand)
  /-- UNDEFINED: one of the 74 opcode bytes with no defined decode entry (30_encoding.md R112, 49_illegal.md R285). -/
  | undefined (b : Byte)
deriving DecidableEq, Repr

/-- The operation tag of an instruction; an undefined opcode byte has none. -/
def Instr.op : Instr → Option Op
  | .lda _ => some .lda
  | .ldx _ => some .ldx
  | .ldy _ => some .ldy
  | .sta _ => some .sta
  | .stx _ => some .stx
  | .sty _ => some .sty
  | .tax => some .tax
  | .tay => some .tay
  | .txa => some .txa
  | .tya => some .tya
  | .tsx => some .tsx
  | .txs => some .txs
  | .and _ => some .and
  | .ora _ => some .ora
  | .eor _ => some .eor
  | .bit _ => some .bit
  | .adc _ => some .adc
  | .sbc _ => some .sbc
  | .cmp _ => some .cmp
  | .cpx _ => some .cpx
  | .cpy _ => some .cpy
  | .inc _ => some .inc
  | .dec _ => some .dec
  | .inx => some .inx
  | .iny => some .iny
  | .dex => some .dex
  | .dey => some .dey
  | .asl _ => some .asl
  | .lsr _ => some .lsr
  | .rol _ => some .rol
  | .ror _ => some .ror
  | .bcc _ => some .bcc
  | .bcs _ => some .bcs
  | .beq _ => some .beq
  | .bne _ => some .bne
  | .bmi _ => some .bmi
  | .bpl _ => some .bpl
  | .bvc _ => some .bvc
  | .bvs _ => some .bvs
  | .jmp _ => some .jmp
  | .jsr _ _ => some .jsr
  | .rts => some .rts
  | .pha => some .pha
  | .pla => some .pla
  | .php => some .php
  | .plp => some .plp
  | .clc => some .clc
  | .sec => some .sec
  | .cli => some .cli
  | .sei => some .sei
  | .cld => some .cld
  | .sed => some .sed
  | .clv => some .clv
  | .brk => some .brk
  | .rti => some .rti
  | .nop => some .nop
  | .lax _ => some .lax
  | .sax _ => some .sax
  | .dcp _ => some .dcp
  | .isb _ => some .isb
  | .slo _ => some .slo
  | .undefined _ => none

/-- The operand form of an instruction, in the addressing mode its encoding has. -/
def Instr.operand : Instr → Operand
  | .lda m => m
  | .ldx m => m
  | .ldy m => m
  | .sta m => m
  | .stx m => m
  | .sty m => m
  | .and m => m
  | .ora m => m
  | .eor m => m
  | .bit m => m
  | .adc m => m
  | .sbc m => m
  | .cmp m => m
  | .cpx m => m
  | .cpy m => m
  | .inc m => m
  | .dec m => m
  | .asl m => m
  | .lsr m => m
  | .rol m => m
  | .ror m => m
  | .jmp m => m
  | .lax m => m
  | .sax m => m
  | .dcp m => m
  | .isb m => m
  | .slo m => m
  | .bcc off => .rel off
  | .bcs off => .rel off
  | .beq off => .rel off
  | .bne off => .rel off
  | .bmi off => .rel off
  | .bpl off => .rel off
  | .bvc off => .rel off
  | .bvs off => .rel off
  | .jsr lo hi => .abs lo hi
  | .tax | .tay | .txa | .tya | .tsx | .txs | .inx | .iny | .dex | .dey
  | .rts | .pha | .pla | .php | .plp | .clc | .sec | .cli | .sei | .cld
  | .sed | .clv | .brk | .rti | .nop => .imp
  | .undefined _ => .imp

end Sys2Proof
end

