-- ==== Sys2Proof/Config.lean ====
section
/-! DEFINITION. What is fixed for one machine: the constants the spec gives, and the parameters of a model
(00_scope.md R6) as plain data, with the spec's defaults. The parameters are carried by the machine state in the
field `params`, which no step changes (notes/assumptions/3.md). -/

namespace Sys2Proof

/-- The low-byte addresses of the three vectors (60_exceptions.md R290). -/
def Config.nmiVector : Word := 0xFFFA
def Config.resetVector : Word := 0xFFFC
def Config.irqVector : Word := 0xFFFE

/-- What the remaining-cycle counter is set to by reset, IRQ entry and NMI entry (70_reset_and_hazards.md R320,
60_exceptions.md R292, R293). -/
def Config.resetCycles : Nat := 8
def Config.irqCycles : Nat := 7
def Config.nmiCycles : Nat := 8

/-- CPU ticks happen on every third SystemClock tick (70_reset_and_hazards.md R330). -/
def Config.clockRatio : Nat := 3

/-- Sizes of the storage arrays (00_scope.md R5). -/
def Config.ramSize : Nat := 2048
def Config.ppuregSize : Nat := 8
def Config.prgBankSize : Nat := 16384
def Config.chrBankSize : Nat := 8192

/-- `UNCLAIMED_POLICY`: what the bus does at an address no range claims (20_memory.md R67, R68). -/
inductive UnclaimedPolicy
  | zeroDrop
  | flatBacking
deriving DecidableEq, Repr

/-- The parameters of a model (00_scope.md R6). `undefEntry` is `UNDEF_ENTRY`: the decode entries supplied for
undefined opcode bytes, none of them by default (`refuse`). `baseCycles` is `BASE_CYCLES` given as its differences
from the default table. `sentinel` is `SENTINEL`. -/
structure Params where
  unclaimed : UnclaimedPolicy
  undefEntry : List DecodeEntry
  baseCycles : List (Byte × Nat)
  sentinel : Option Word
deriving DecidableEq, Repr

/-- The defaults of 00_scope.md R6 (decisions D1, D3, D23, D24). -/
def Params.default : Params where
  unclaimed := .zeroDrop
  undefEntry := []
  baseCycles := []
  sentinel := none

end Sys2Proof
end

