-- ==== Sys2Proof/WellFormed.lean ====
section
/-! DEFINITION. Which instructions exist: the pairing of operations and addressing modes (40_addressing_modes.md R149)
and the 74 undefined opcode bytes (30_encoding.md R112). Written from those two rules, not from the decode table, so
that the table is checked against them. -/

namespace Sys2Proof

/-- The eight modes of LDA, AND, ORA, EOR, ADC, SBC and CMP (40_addressing_modes.md R149). -/
def accumulatorModes : List Mode := [.imm, .zp0, .zpx, .abs, .abx, .aby, .izx, .izy]

/-- The seven modes of DCP, ISB and SLO (40_addressing_modes.md R149). -/
def combinedModes : List Mode := [.zp0, .zpx, .abs, .abx, .aby, .izx, .izy]

/-- The addressing modes each operation has (40_addressing_modes.md R149). -/
def Op.modes : Op → List Mode
  | .lda | .and | .ora | .eor | .adc | .sbc | .cmp => accumulatorModes
  | .sta => [.zp0, .zpx, .abs, .abx, .aby, .izx, .izy]
  | .asl | .lsr | .rol | .ror => [.imp, .zp0, .zpx, .abs, .abx]
  | .inc | .dec => [.zp0, .zpx, .abs, .abx]
  | .cpx | .cpy => [.imm, .zp0, .abs]
  | .ldx => [.imm, .zp0, .zpy, .abs, .aby]
  | .ldy => [.imm, .zp0, .zpx, .abs, .abx]
  | .stx => [.zp0, .zpy, .abs]
  | .sty => [.zp0, .zpx, .abs]
  | .bit => [.zp0, .abs]
  | .jmp => [.abs, .ind]
  | .jsr => [.abs]
  | .bcc | .bcs | .beq | .bne | .bmi | .bpl | .bvc | .bvs => [.rel]
  | .lax => [.zp0, .zpy, .abs, .aby, .izx, .izy]
  | .sax => [.zp0, .zpy, .abs, .izx]
  | .dcp | .isb | .slo => combinedModes
  | .tax | .tay | .txa | .tya | .tsx | .txs | .inx | .iny | .dex | .dey | .rts
  | .pha | .pla | .php | .plp | .clc | .sec | .cli | .sei | .cld | .sed | .clv
  | .brk | .rti | .nop => [.imp]

/-- The 74 undefined opcode bytes (30_encoding.md R112). -/
def undefinedBytes : List Byte :=
  [0x02, 0x04, 0x0B, 0x0C, 0x12, 0x14, 0x1A, 0x1C, 0x22, 0x23, 0x27, 0x2B, 0x2F] ++
  [0x32, 0x33, 0x34, 0x37, 0x3A, 0x3B, 0x3C, 0x3F, 0x42, 0x43, 0x44, 0x47, 0x4B, 0x4F] ++
  [0x52, 0x53, 0x54, 0x57, 0x5A, 0x5B, 0x5C, 0x5F, 0x62, 0x63, 0x64, 0x67, 0x6B, 0x6F] ++
  [0x72, 0x73, 0x74, 0x77, 0x7A, 0x7B, 0x7C, 0x7F, 0x80, 0x82, 0x89, 0x8B, 0x92, 0x93] ++
  [0x9B, 0x9C, 0x9E, 0x9F, 0xAB, 0xB2, 0xBB, 0xC2, 0xCB, 0xD2, 0xD4, 0xDA, 0xDC] ++
  [0xE2, 0xEB, 0xF2, 0xF4, 0xFA, 0xFC]

/-- An instruction the decode table holds: its operand form is in a mode its operation has (R149); an undefined byte
is one of the 74 (R112). -/
def Instr.wf : Instr → Bool
  | .undefined b => undefinedBytes.contains b
  | i =>
    match i.op with
    | some o => o.modes.contains i.operand.mode
    | none => false

end Sys2Proof
end

