-- ==== Sys2Proof/Decode.lean ====
section
/-! DEFINITION. The decode table (30_encoding.md R108), the decoder, total on any bytes, and the encoder written from
the same table (R100, R101). A byte without a row decodes to `undefined` (R112); a list of bytes that ends inside an
instruction is rejected by name. -/

namespace Sys2Proof

/-- Load, store and transfer rows of the decode table (30_encoding.md R108; operations R161 to R172). -/
def loadStoreRows : List DecodeEntry :=
  [ ⟨0xA1, .lda, .izx, 6⟩, ⟨0xA5, .lda, .zp0, 3⟩, ⟨0xA9, .lda, .imm, 2⟩, ⟨0xAD, .lda, .abs, 4⟩,
    ⟨0xB1, .lda, .izy, 5⟩, ⟨0xB5, .lda, .zpx, 4⟩, ⟨0xB9, .lda, .aby, 4⟩, ⟨0xBD, .lda, .abx, 4⟩,
    ⟨0xA2, .ldx, .imm, 2⟩, ⟨0xA6, .ldx, .zp0, 3⟩, ⟨0xAE, .ldx, .abs, 4⟩, ⟨0xB6, .ldx, .zpy, 4⟩,
    ⟨0xBE, .ldx, .aby, 4⟩,
    ⟨0xA0, .ldy, .imm, 2⟩, ⟨0xA4, .ldy, .zp0, 3⟩, ⟨0xAC, .ldy, .abs, 4⟩, ⟨0xB4, .ldy, .zpx, 4⟩,
    ⟨0xBC, .ldy, .abx, 4⟩,
    ⟨0x81, .sta, .izx, 6⟩, ⟨0x85, .sta, .zp0, 3⟩, ⟨0x8D, .sta, .abs, 4⟩, ⟨0x91, .sta, .izy, 6⟩,
    ⟨0x95, .sta, .zpx, 4⟩, ⟨0x99, .sta, .aby, 5⟩, ⟨0x9D, .sta, .abx, 5⟩,
    ⟨0x86, .stx, .zp0, 3⟩, ⟨0x8E, .stx, .abs, 4⟩, ⟨0x96, .stx, .zpy, 4⟩,
    ⟨0x84, .sty, .zp0, 3⟩, ⟨0x8C, .sty, .abs, 4⟩, ⟨0x94, .sty, .zpx, 4⟩,
    ⟨0xAA, .tax, .imp, 2⟩,
    ⟨0xA8, .tay, .imp, 2⟩,
    ⟨0x8A, .txa, .imp, 2⟩,
    ⟨0x98, .tya, .imp, 2⟩,
    ⟨0xBA, .tsx, .imp, 2⟩,
    ⟨0x9A, .txs, .imp, 2⟩ ]

/-- Logic rows of the decode table (30_encoding.md R108; operations R180 to R183). -/
def logicRows : List DecodeEntry :=
  [ ⟨0x21, .and, .izx, 6⟩, ⟨0x25, .and, .zp0, 3⟩, ⟨0x29, .and, .imm, 2⟩, ⟨0x2D, .and, .abs, 4⟩,
    ⟨0x31, .and, .izy, 5⟩, ⟨0x35, .and, .zpx, 4⟩, ⟨0x39, .and, .aby, 4⟩, ⟨0x3D, .and, .abx, 4⟩,
    ⟨0x01, .ora, .izx, 6⟩, ⟨0x05, .ora, .zp0, 3⟩, ⟨0x09, .ora, .imm, 2⟩, ⟨0x0D, .ora, .abs, 4⟩,
    ⟨0x11, .ora, .izy, 5⟩, ⟨0x15, .ora, .zpx, 4⟩, ⟨0x19, .ora, .aby, 4⟩, ⟨0x1D, .ora, .abx, 4⟩,
    ⟨0x41, .eor, .izx, 6⟩, ⟨0x45, .eor, .zp0, 3⟩, ⟨0x49, .eor, .imm, 2⟩, ⟨0x4D, .eor, .abs, 4⟩,
    ⟨0x51, .eor, .izy, 5⟩, ⟨0x55, .eor, .zpx, 4⟩, ⟨0x59, .eor, .aby, 4⟩, ⟨0x5D, .eor, .abx, 4⟩,
    ⟨0x24, .bit, .zp0, 3⟩, ⟨0x2C, .bit, .abs, 4⟩ ]

/-- Arithmetic, compares, increments and decrements rows of the decode table (30_encoding.md R108; operations R192 to R203). -/
def arithmeticRows : List DecodeEntry :=
  [ ⟨0x61, .adc, .izx, 6⟩, ⟨0x65, .adc, .zp0, 3⟩, ⟨0x69, .adc, .imm, 2⟩, ⟨0x6D, .adc, .abs, 4⟩,
    ⟨0x71, .adc, .izy, 5⟩, ⟨0x75, .adc, .zpx, 4⟩, ⟨0x79, .adc, .aby, 4⟩, ⟨0x7D, .adc, .abx, 4⟩,
    ⟨0xE1, .sbc, .izx, 6⟩, ⟨0xE5, .sbc, .zp0, 3⟩, ⟨0xE9, .sbc, .imm, 2⟩, ⟨0xED, .sbc, .abs, 4⟩,
    ⟨0xF1, .sbc, .izy, 5⟩, ⟨0xF5, .sbc, .zpx, 4⟩, ⟨0xF9, .sbc, .aby, 4⟩, ⟨0xFD, .sbc, .abx, 4⟩,
    ⟨0xC1, .cmp, .izx, 6⟩, ⟨0xC5, .cmp, .zp0, 3⟩, ⟨0xC9, .cmp, .imm, 2⟩, ⟨0xCD, .cmp, .abs, 4⟩,
    ⟨0xD1, .cmp, .izy, 5⟩, ⟨0xD5, .cmp, .zpx, 4⟩, ⟨0xD9, .cmp, .aby, 4⟩, ⟨0xDD, .cmp, .abx, 4⟩,
    ⟨0xE0, .cpx, .imm, 2⟩, ⟨0xE4, .cpx, .zp0, 3⟩, ⟨0xEC, .cpx, .abs, 4⟩,
    ⟨0xC0, .cpy, .imm, 2⟩, ⟨0xC4, .cpy, .zp0, 3⟩, ⟨0xCC, .cpy, .abs, 4⟩,
    ⟨0xE6, .inc, .zp0, 5⟩, ⟨0xEE, .inc, .abs, 6⟩, ⟨0xF6, .inc, .zpx, 6⟩, ⟨0xFE, .inc, .abx, 7⟩,
    ⟨0xC6, .dec, .zp0, 5⟩, ⟨0xCE, .dec, .abs, 6⟩, ⟨0xD6, .dec, .zpx, 6⟩, ⟨0xDE, .dec, .abx, 7⟩,
    ⟨0xE8, .inx, .imp, 2⟩,
    ⟨0xC8, .iny, .imp, 2⟩,
    ⟨0xCA, .dex, .imp, 2⟩,
    ⟨0x88, .dey, .imp, 2⟩ ]

/-- Shifts and rotates rows of the decode table (30_encoding.md R108; operations R211 to R214). -/
def shiftRows : List DecodeEntry :=
  [ ⟨0x06, .asl, .zp0, 5⟩, ⟨0x0A, .asl, .imp, 2⟩, ⟨0x0E, .asl, .abs, 6⟩, ⟨0x16, .asl, .zpx, 6⟩,
    ⟨0x1E, .asl, .abx, 7⟩,
    ⟨0x46, .lsr, .zp0, 5⟩, ⟨0x4A, .lsr, .imp, 2⟩, ⟨0x4E, .lsr, .abs, 6⟩, ⟨0x56, .lsr, .zpx, 6⟩,
    ⟨0x5E, .lsr, .abx, 7⟩,
    ⟨0x26, .rol, .zp0, 5⟩, ⟨0x2A, .rol, .imp, 2⟩, ⟨0x2E, .rol, .abs, 6⟩, ⟨0x36, .rol, .zpx, 6⟩,
    ⟨0x3E, .rol, .abx, 7⟩,
    ⟨0x66, .ror, .zp0, 5⟩, ⟨0x6A, .ror, .imp, 2⟩, ⟨0x6E, .ror, .abs, 6⟩, ⟨0x76, .ror, .zpx, 6⟩,
    ⟨0x7E, .ror, .abx, 7⟩ ]

/-- Branches rows of the decode table (30_encoding.md R108; operations R221 to R228). -/
def branchRows : List DecodeEntry :=
  [ ⟨0x90, .bcc, .rel, 2⟩,
    ⟨0xB0, .bcs, .rel, 2⟩,
    ⟨0xF0, .beq, .rel, 2⟩,
    ⟨0xD0, .bne, .rel, 2⟩,
    ⟨0x30, .bmi, .rel, 2⟩,
    ⟨0x10, .bpl, .rel, 2⟩,
    ⟨0x50, .bvc, .rel, 2⟩,
    ⟨0x70, .bvs, .rel, 2⟩ ]

/-- Jumps and subroutines rows of the decode table (30_encoding.md R108; operations R235 to R238). -/
def jumpRows : List DecodeEntry :=
  [ ⟨0x4C, .jmp, .abs, 3⟩, ⟨0x6C, .jmp, .ind, 5⟩,
    ⟨0x20, .jsr, .abs, 6⟩,
    ⟨0x60, .rts, .imp, 6⟩ ]

/-- Stack and flags rows of the decode table (30_encoding.md R108; operations R245 to R255). -/
def stackFlagRows : List DecodeEntry :=
  [ ⟨0x48, .pha, .imp, 3⟩,
    ⟨0x68, .pla, .imp, 4⟩,
    ⟨0x08, .php, .imp, 3⟩,
    ⟨0x28, .plp, .imp, 4⟩,
    ⟨0x18, .clc, .imp, 2⟩,
    ⟨0x38, .sec, .imp, 2⟩,
    ⟨0x58, .cli, .imp, 2⟩,
    ⟨0x78, .sei, .imp, 2⟩,
    ⟨0xD8, .cld, .imp, 2⟩,
    ⟨0xF8, .sed, .imp, 2⟩,
    ⟨0xB8, .clv, .imp, 2⟩ ]

/-- System rows of the decode table (30_encoding.md R108; operations R265 to R270). -/
def systemRows : List DecodeEntry :=
  [ ⟨0x00, .brk, .imp, 7⟩,
    ⟨0x40, .rti, .imp, 6⟩,
    ⟨0xEA, .nop, .imp, 2⟩ ]

/-- Undocumented rows of the decode table (30_encoding.md R108; operations R276 to R280). -/
def undocumentedRows : List DecodeEntry :=
  [ ⟨0xA3, .lax, .izx, 6⟩, ⟨0xA7, .lax, .zp0, 3⟩, ⟨0xAF, .lax, .abs, 4⟩, ⟨0xB3, .lax, .izy, 5⟩,
    ⟨0xB7, .lax, .zpy, 4⟩, ⟨0xBF, .lax, .aby, 4⟩,
    ⟨0x83, .sax, .izx, 6⟩, ⟨0x87, .sax, .zp0, 3⟩, ⟨0x8F, .sax, .abs, 4⟩, ⟨0x97, .sax, .zpy, 4⟩,
    ⟨0xC3, .dcp, .izx, 8⟩, ⟨0xC7, .dcp, .zp0, 5⟩, ⟨0xCF, .dcp, .abs, 6⟩, ⟨0xD3, .dcp, .izy, 8⟩,
    ⟨0xD7, .dcp, .zpx, 6⟩, ⟨0xDB, .dcp, .aby, 7⟩, ⟨0xDF, .dcp, .abx, 7⟩,
    ⟨0xE3, .isb, .izx, 8⟩, ⟨0xE7, .isb, .zp0, 5⟩, ⟨0xEF, .isb, .abs, 6⟩, ⟨0xF3, .isb, .izy, 8⟩,
    ⟨0xF7, .isb, .zpx, 6⟩, ⟨0xFB, .isb, .aby, 7⟩, ⟨0xFF, .isb, .abx, 7⟩,
    ⟨0x03, .slo, .izx, 8⟩, ⟨0x07, .slo, .zp0, 5⟩, ⟨0x0F, .slo, .abs, 6⟩, ⟨0x13, .slo, .izy, 8⟩,
    ⟨0x17, .slo, .zpx, 6⟩, ⟨0x1B, .slo, .aby, 7⟩, ⟨0x1F, .slo, .abx, 7⟩ ]

/-- The defined entries of the 256-entry decode table, 182 rows (30_encoding.md R108, R43). -/
def decodeTable : List DecodeEntry :=
  loadStoreRows ++ logicRows ++ arithmeticRows ++ shiftRows ++
  branchRows ++ jumpRows ++ stackFlagRows ++ systemRows ++ undocumentedRows

/-- The entry of the decode table at an opcode byte (R105, R108). -/
def findEntry (b : Byte) : Option DecodeEntry :=
  decodeTable.find? fun e => Nat.beq e.opcode.toNat b.toNat

/-- The opcode byte of an operation in an addressing mode (R108). -/
def opcodeOf (o : Op) (m : Mode) : Option Byte :=
  (decodeTable.find? fun e => e.op == o && e.mode == m).map DecodeEntry.opcode

/-- The default `BASE_CYCLES` (R110): the table's base cycle count at an opcode byte. -/
def defaultBaseCycles (b : Byte) : Nat :=
  match findEntry b with
  | some e => e.cycles
  | none => 0

/-- The operand form of a mode with the bytes that follow the opcode (R101, R104). -/
def Operand.ofBytes : Mode → Byte → Byte → Operand
  | .imp, _, _ => .imp
  | .imm, b1, _ => .imm b1
  | .zp0, b1, _ => .zp0 b1
  | .zpx, b1, _ => .zpx b1
  | .zpy, b1, _ => .zpy b1
  | .rel, b1, _ => .rel b1
  | .abs, lo, hi => .abs lo hi
  | .abx, lo, hi => .abx lo hi
  | .aby, lo, hi => .aby lo hi
  | .ind, lo, hi => .ind lo hi
  | .izx, b1, _ => .izx b1
  | .izy, b1, _ => .izy b1

/-- The bytes of an operand form, as they follow the opcode: none, `b1`, or `lo` then `hi` (R101). -/
def Operand.bytes : Operand → List Byte
  | .imp => []
  | .imm b1 | .zp0 b1 | .zpx b1 | .zpy b1 | .rel b1 | .izx b1 | .izy b1 => [b1]
  | .abs lo hi | .abx lo hi | .aby lo hi | .ind lo hi => [lo, hi]

/-- The instruction of an operation, a mode and the two bytes that follow the opcode. -/
def Instr.build : Op → Mode → Byte → Byte → Instr
  | .lda, mode, b1, b2 => .lda (Operand.ofBytes mode b1 b2)
  | .ldx, mode, b1, b2 => .ldx (Operand.ofBytes mode b1 b2)
  | .ldy, mode, b1, b2 => .ldy (Operand.ofBytes mode b1 b2)
  | .sta, mode, b1, b2 => .sta (Operand.ofBytes mode b1 b2)
  | .stx, mode, b1, b2 => .stx (Operand.ofBytes mode b1 b2)
  | .sty, mode, b1, b2 => .sty (Operand.ofBytes mode b1 b2)
  | .tax, _, _, _ => .tax
  | .tay, _, _, _ => .tay
  | .txa, _, _, _ => .txa
  | .tya, _, _, _ => .tya
  | .tsx, _, _, _ => .tsx
  | .txs, _, _, _ => .txs
  | .and, mode, b1, b2 => .and (Operand.ofBytes mode b1 b2)
  | .ora, mode, b1, b2 => .ora (Operand.ofBytes mode b1 b2)
  | .eor, mode, b1, b2 => .eor (Operand.ofBytes mode b1 b2)
  | .bit, mode, b1, b2 => .bit (Operand.ofBytes mode b1 b2)
  | .adc, mode, b1, b2 => .adc (Operand.ofBytes mode b1 b2)
  | .sbc, mode, b1, b2 => .sbc (Operand.ofBytes mode b1 b2)
  | .cmp, mode, b1, b2 => .cmp (Operand.ofBytes mode b1 b2)
  | .cpx, mode, b1, b2 => .cpx (Operand.ofBytes mode b1 b2)
  | .cpy, mode, b1, b2 => .cpy (Operand.ofBytes mode b1 b2)
  | .inc, mode, b1, b2 => .inc (Operand.ofBytes mode b1 b2)
  | .dec, mode, b1, b2 => .dec (Operand.ofBytes mode b1 b2)
  | .inx, _, _, _ => .inx
  | .iny, _, _, _ => .iny
  | .dex, _, _, _ => .dex
  | .dey, _, _, _ => .dey
  | .asl, mode, b1, b2 => .asl (Operand.ofBytes mode b1 b2)
  | .lsr, mode, b1, b2 => .lsr (Operand.ofBytes mode b1 b2)
  | .rol, mode, b1, b2 => .rol (Operand.ofBytes mode b1 b2)
  | .ror, mode, b1, b2 => .ror (Operand.ofBytes mode b1 b2)
  | .bcc, _, b1, _ => .bcc b1
  | .bcs, _, b1, _ => .bcs b1
  | .beq, _, b1, _ => .beq b1
  | .bne, _, b1, _ => .bne b1
  | .bmi, _, b1, _ => .bmi b1
  | .bpl, _, b1, _ => .bpl b1
  | .bvc, _, b1, _ => .bvc b1
  | .bvs, _, b1, _ => .bvs b1
  | .jmp, mode, b1, b2 => .jmp (Operand.ofBytes mode b1 b2)
  | .jsr, _, b1, b2 => .jsr b1 b2
  | .rts, _, _, _ => .rts
  | .pha, _, _, _ => .pha
  | .pla, _, _, _ => .pla
  | .php, _, _, _ => .php
  | .plp, _, _, _ => .plp
  | .clc, _, _, _ => .clc
  | .sec, _, _, _ => .sec
  | .cli, _, _, _ => .cli
  | .sei, _, _, _ => .sei
  | .cld, _, _, _ => .cld
  | .sed, _, _, _ => .sed
  | .clv, _, _, _ => .clv
  | .brk, _, _, _ => .brk
  | .rti, _, _, _ => .rti
  | .nop, _, _, _ => .nop
  | .lax, mode, b1, b2 => .lax (Operand.ofBytes mode b1 b2)
  | .sax, mode, b1, b2 => .sax (Operand.ofBytes mode b1 b2)
  | .dcp, mode, b1, b2 => .dcp (Operand.ofBytes mode b1 b2)
  | .isb, mode, b1, b2 => .isb (Operand.ofBytes mode b1 b2)
  | .slo, mode, b1, b2 => .slo (Operand.ofBytes mode b1 b2)

/-- The instruction at three consecutive bytes of the instruction stream: the opcode byte alone selects the entry
(R100, R105); a byte with no entry is an undefined opcode byte (R112). -/
def decodeBytes (b0 b1 b2 : Byte) : Instr :=
  match findEntry b0 with
  | some e => Instr.build e.op e.mode b1 b2
  | none => .undefined b0

/-- How many bytes the instruction at an opcode byte has: one and its operand bytes (R100, R101); an undefined byte
is taken alone (R285: no length is given). -/
def lengthAt (b0 : Byte) : Nat :=
  match findEntry b0 with
  | some e => 1 + e.mode.operandBytes
  | none => 1

/-- Why a list of bytes is no instruction: it is empty, or it ends before the operand bytes its opcode byte needs. -/
inductive DecodeError
  | noBytes
  | truncated (opcode : Byte)
deriving DecidableEq, Repr

/-- The decoder on a list of bytes: the first instruction and the bytes after it. -/
def decode : List Byte → Except DecodeError (Instr × List Byte)
  | [] => .error .noBytes
  | b0 :: rest =>
    if rest.length + 1 < lengthAt b0 then .error (.truncated b0)
    else .ok (decodeBytes b0 (rest.getD 0 0) (rest.getD 1 0), (b0 :: rest).drop (lengthAt b0))

/-- The opcode byte of an instruction (R108); none for an operand form its operation does not have. -/
def Instr.opcode (i : Instr) : Option Byte :=
  match i with
  | .undefined b => some b
  | i =>
    match i.op with
    | some o => opcodeOf o i.operand.mode
    | none => none

/-- The encoder: opcode byte, then the operand bytes, low byte first (R100, R101); no bytes for an ill-formed term. -/
def encode (i : Instr) : List Byte :=
  match i.opcode with
  | some b => b :: i.operand.bytes
  | none => []

/-- Byte `k` of a number whose bit 0 is the least significant bit of the first byte, bits at and above `nbits` zero. -/
def tableByte (nbits w k : Nat) : Byte :=
  BitVec.ofNat 8 ((w % 2 ^ nbits) >>> (8 * k))

/-- The instruction the decoder reads from an instruction whose bits are `w` (byte 0 of the instruction in bits 7..0,
byte 1 in bits 15..8, byte 2 in bits 23..16), the bits from `nbits` on being 0. -/
def decodeTableWord (nbits w : Nat) : Option Instr :=
  match decode [tableByte nbits w 0, tableByte nbits w 1, tableByte nbits w 2] with
  | .ok (i, _) => some i
  | .error _ => none

end Sys2Proof
end

