-- ==== Sys2Proof/Machine/State.lean ====
section
/-! DEFINITION. The machine's state as plain data: every piece of state the spec gives the block (10_state.md), the
model's parameters and the environment's schedule of input events; the reasons a step can stop; the state after
reset; and one update per register. -/

namespace Sys2Proof.Machine

/-- A storage array as a sparse list of index and byte: indices strictly rising, no entry equal to what an unlisted
index reads as (Machine/Memory.lean, `Memory.wf`). -/
abbrev Memory := List Host.Cell

/-- The attached cartridge: geometry, `PRG` and `CHR` (10_state.md R38, 00_scope.md R6). -/
structure Cartridge where
  mapperId : Nat
  prgBanks : Nat
  chrBanks : Nat
  prg : Memory
  chr : Memory
deriving DecidableEq, Repr

/-- An input event of the block (00_scope.md R8): one `Step` at the instruction level (R9), a CPU tick, a SystemClock
tick, the two interrupt requests, reset. -/
inductive Event
  | instruction
  | tick
  | sysclockTick
  | irq
  | nmi
  | reset
deriving DecidableEq, Repr

/-- The machine. -/
structure State where
  /-- Accumulator (R20). -/
  a : Byte
  /-- Index register X (R21). -/
  x : Byte
  /-- Index register Y (R22). -/
  y : Byte
  /-- Stack pointer, an offset into page 1 (R23). -/
  sp : Byte
  /-- Status register `P`: C, Z, I, D, B, U, V, N at bits 0 to 7 (R26). -/
  p : Byte
  /-- Program counter (R31). -/
  pc : Word
  /-- Remaining-cycle counter `CYC` (R33). -/
  cyc : Nat
  /-- Absolute-address latch `EA` (R34). -/
  ea : Word
  /-- Relative-address latch `REL` (R34). -/
  rel : Word
  /-- Fetched-operand latch (R34). -/
  fetched : Byte
  /-- Internal RAM, indices 0 to 2047 (R37). -/
  ram : Memory
  /-- PPU-register array, indices 0 to 7 (R36). -/
  ppureg : Memory
  /-- The optional cartridge with its PRG and CHR arrays (R38). -/
  cart : Option Cartridge
  /-- The backing array of `UNCLAIMED_POLICY = flat_backing` (R39). -/
  back : Memory
  /-- SystemClock tick counter `TICKS` (R40). -/
  ticks : Nat
  /-- The model's parameters (00_scope.md R6, 10_state.md R41); changed by no step. -/
  params : Params
  /-- The model's own field: the environment's coming input events, oldest first (R41); when it is empty the machine
  runs instructions (notes/assumptions/2.md). -/
  schedule : List Event
deriving DecidableEq, Repr

/-- The faults of a step: none. "The block never faults" (00_scope.md R11), so the type has no constructor; every
function that could answer a fault is safe because no fault exists. -/
inductive Fault
deriving DecidableEq, Repr

/-- The refusals of the model (00_scope.md R11, 70_reset_and_hazards.md R341). -/
inductive Refusal
  /-- Raised by an arm of `exec` whose instruction has no meaning yet; safe. -/
  | notModelled (mnemonic : String)
  /-- `Refused(UndefinedOpcode b)`: raised by `execUndefined` at an undefined opcode byte for which `UNDEF_ENTRY`
  supplies no entry (49_illegal.md R285); safe. -/
  | undefinedOpcode (b : Byte)
  /-- `Refused(BadCartridge)`: raised by `attachCartridge` and by every step of a machine whose cartridge has another
  mapper id than 0 or no PRG bank (20_memory.md R73, R76); safe. -/
  | badCartridge
  /-- Raised by the PPU-side port at an address the mapper does not claim, which is outside the block
  (20_memory.md R81); safe. -/
  | ppuUnclaimed (addr : Word)
deriving DecidableEq, Repr

/-- The outcome of a step. -/
abbrev Result := Host.Outcome State Fault Refusal

/-- The machine right after the `reset` event (10_state.md R42) with no cartridge, the default parameters and nothing
written to memory: the reset vector then reads 0x0000 (70_reset_and_hazards.md R320). -/
def State.reset : State where
  a := 0x00
  x := 0x00
  y := 0x00
  sp := 0xFD
  p := 0x20
  pc := 0x0000
  cyc := Config.resetCycles
  ea := 0
  rel := 0
  fetched := 0
  ram := []
  ppureg := []
  cart := none
  back := []
  ticks := 0
  params := Params.default
  schedule := []

/-- Register writes (00_scope.md R12, `A <- v`), one per register. -/
def State.setA (s : State) (v : Byte) : State := { s with a := v }
def State.setX (s : State) (v : Byte) : State := { s with x := v }
def State.setY (s : State) (v : Byte) : State := { s with y := v }
def State.setSp (s : State) (v : Byte) : State := { s with sp := v }
def State.setP (s : State) (v : Byte) : State := { s with p := v }
def State.setPc (s : State) (v : Word) : State := { s with pc := v }
def State.setCyc (s : State) (v : Nat) : State := { s with cyc := v }
def State.setEa (s : State) (v : Word) : State := { s with ea := v }
def State.setRel (s : State) (v : Word) : State := { s with rel := v }
def State.setFetched (s : State) (v : Byte) : State := { s with fetched := v }
def State.setRam (s : State) (v : Memory) : State := { s with ram := v }
def State.setPpureg (s : State) (v : Memory) : State := { s with ppureg := v }
def State.setCart (s : State) (v : Option Cartridge) : State := { s with cart := v }
def State.setBack (s : State) (v : Memory) : State := { s with back := v }
def State.setTicks (s : State) (v : Nat) : State := { s with ticks := v }
def State.setSchedule (s : State) (v : List Event) : State := { s with schedule := v }

end Sys2Proof.Machine
end

