-- ==== Sys2Proof/Machine/Memory.lean ====
section
/-! DEFINITION. Storage arrays: what an unlisted index reads as, reading and writing one byte, the canonical form, and
building an array from the bytes the host supplies (10_state.md R36 to R39). -/

namespace Sys2Proof.Machine

/-- What an index that nothing has written reads as: the default `INIT_MEM` of decision D16, all bytes zero
(10_state.md R36, R37; DESIGN CHOICE, notes/assumptions/5.md). -/
def Memory.unlisted : Byte := 0x00

/-- The byte at an index. -/
def Memory.read : Memory → Nat → Byte
  | [], _ => Memory.unlisted
  | (k, b) :: rest, i => if k = i then b else Memory.read rest i

/-- The array without an entry at an index. -/
def Memory.erase : Memory → Nat → Memory
  | [], _ => []
  | (k, b) :: rest, i => if k = i then Memory.erase rest i else (k, b) :: Memory.erase rest i

/-- The array with an entry placed in order. -/
def Memory.insert : Memory → Nat → Byte → Memory
  | [], i, v => [(i, v)]
  | (k, b) :: rest, i, v =>
    if i < k then (i, v) :: (k, b) :: rest
    else if i = k then (i, v) :: rest
    else (k, b) :: Memory.insert rest i v

/-- The array with one byte changed, in canonical form: the value an unlisted index reads as removes the entry. -/
def Memory.write (m : Memory) (i : Nat) (v : Byte) : Memory :=
  if v = Memory.unlisted then m.erase i else m.insert i v

/-- Canonical form from an index on: indices at least `lo`, strictly rising, no entry equal to the unlisted byte. -/
def Memory.wfFrom (lo : Nat) : Memory → Bool
  | [] => true
  | (k, b) :: rest => decide (lo ≤ k) && decide (b ≠ Memory.unlisted) && Memory.wfFrom (k + 1) rest

/-- Canonical form: equal arrays are equal lists. -/
def Memory.wf (m : Memory) : Bool := Memory.wfFrom 0 m

/-- Every listed index is below the array's size. -/
def Memory.within (m : Memory) (size : Nat) : Bool := m.all fun c => decide (c.1 < size)

/-- An array from its bytes, the first at index `k`. -/
def Memory.ofBytesFrom : Nat → List Byte → Memory
  | _, [] => []
  | k, b :: rest =>
    if b = Memory.unlisted then Memory.ofBytesFrom (k + 1) rest
    else (k, b) :: Memory.ofBytesFrom (k + 1) rest

/-- An array from its bytes, the first at index 0. -/
def Memory.ofBytes (bytes : List Byte) : Memory := Memory.ofBytesFrom 0 bytes

end Sys2Proof.Machine
end

