-- ==== Sys2Proof/Machine/Bus.lean ====
section
/-! DEFINITION. The memory bus and the cartridge mapper (20_memory.md): the four mapper functions of Mapper0, the
storage byte an address reaches, the one-byte reads and writes of the CPU side (`MemRead`, `MemWrite`), and the
PPU-side port to CHR. -/

namespace Sys2Proof.Machine

/-- A cartridge this model has a mapper policy for: mapper id 0 and at least one PRG bank (R73, R76). -/
def Cartridge.supported (c : Cartridge) : Bool :=
  decide (c.mapperId = 0) && decide (1 ≤ c.prgBanks)

/-- `cpu_map_read` and `cpu_map_write` of Mapper0, one function (R70, R71): `none` is "not claimed". A cartridge
without a policy claims nothing (R76); a step never reaches it. -/
def cpuMap (c : Cartridge) (addr : Word) : Option Offset :=
  if c.supported = false then none
  else if 0x8000 ≤ addr then
    if c.prgBanks = 1 then some ((addr &&& 0x3FFF).setWidth 32)
    else some ((addr &&& 0x7FFF).setWidth 32)
  else none

/-- `ppu_map_read` of Mapper0 (R78). -/
def ppuMapRead (c : Cartridge) (addr : Word) : Option Offset :=
  if c.supported && decide (addr ≤ 0x1FFF) then some (addr.setWidth 32) else none

/-- `ppu_map_write` of Mapper0 (R79). -/
def ppuMapWrite (c : Cartridge) (addr : Word) : Option Offset :=
  if c.supported && decide (addr ≤ 0x1FFF) && decide (c.chrBanks = 0) then some (addr.setWidth 32) else none

/-- The storage byte an access reaches, after masking (R61, R92). -/
inductive Storage
  | ram (i : Nat)
  | ppureg (i : Nat)
  | prg (off : Nat)
  | back (i : Nat)
  | dropped
deriving DecidableEq, Repr

/-- The decoder (R61): mapper first, then RAM, then the PPU-register array, then unclaimed (R65 to R68). -/
def locate (s : State) (addr : Word) : Storage :=
  match s.cart.bind fun c => cpuMap c addr with
  | some off => .prg off.toNat
  | none =>
    if addr ≤ 0x1FFF then .ram (addr &&& 0x07FF).toNat
    else if addr ≤ 0x3FFF then .ppureg (addr &&& 0x0007).toNat
    else
      match s.params.unclaimed with
      | .zeroDrop => .dropped
      | .flatBacking => .back addr.toNat

/-- The byte a storage place holds; a dropped access reads 0x00 (R67). -/
def readStorage (s : State) : Storage → Byte
  | .ram i => s.ram.read i
  | .ppureg i => s.ppureg.read i
  | .prg off =>
    match s.cart with
    | some c => c.prg.read off
    | none => 0x00
  | .back i => s.back.read i
  | .dropped => 0x00

/-- One storage byte changed; a dropped access changes nothing (R67). -/
def writeStorage (s : State) (place : Storage) (v : Byte) : State :=
  match place with
  | .ram i => s.setRam (s.ram.write i v)
  | .ppureg i => s.setPpureg (s.ppureg.write i v)
  | .prg off => s.setCart (s.cart.map fun c => { c with prg := c.prg.write off v })
  | .back i => s.setBack (s.back.write i v)
  | .dropped => s

/-- `MemRead(addr, 1)` (R62). -/
def memRead (s : State) (addr : Word) : Byte := readStorage s (locate s addr)

/-- `MemWrite(addr, 1, v)` (R63). -/
def memWrite (s : State) (addr : Word) (v : Byte) : State := writeStorage s (locate s addr) v

/-- `{hi, lo}` of two bytes (00_scope.md R12). -/
def word (hi lo : Byte) : Word := hi ++ lo

/-- Bits 15:8 and 7:0 of a 16-bit value. -/
def hiByte (w : Word) : Byte := w.extractLsb' 8 8
def loByte (w : Word) : Byte := w.extractLsb' 0 8

/-- `MemRead(addr, 2)`: little-endian, the second byte at `addr + 1` modulo 65536 (R88). -/
def memRead16 (s : State) (addr : Word) : Word := word (memRead s (addr + 1)) (memRead s addr)

/-- A PPU-side read: `CHR[off]` at a claimed address (R80), refused elsewhere (R81). -/
def ppuRead (s : State) (addr : Word) : Host.Outcome Byte Fault Refusal :=
  match s.cart with
  | some c =>
    match ppuMapRead c addr with
    | some off => .next (c.chr.read off.toNat)
    | none => .refused (.ppuUnclaimed addr)
  | none => .refused (.ppuUnclaimed addr)

/-- A PPU-side write: `CHR[off] <- v` at a claimed address (R80), refused elsewhere (R81). -/
def ppuWrite (s : State) (addr : Word) (v : Byte) : Result :=
  match s.cart with
  | some c =>
    match ppuMapWrite c addr with
    | some off => .next (s.setCart (some { c with chr := c.chr.write off.toNat v }))
    | none => .refused (.ppuUnclaimed addr)
  | none => .refused (.ppuUnclaimed addr)

end Sys2Proof.Machine
end

