-- ==== Sys2Proof/Machine/Flags.lean ====
section
/-! DEFINITION. The status register and every flag computation: the eight flags at their bits (10_state.md R26),
`SetZN` (00_scope.md R12), the adder of ADC and SBC (43_arithmetic.md R190, R192, R193), `Compare` (R194), the shifts
(44_shift_rotate.md) and BIT (42_logic.md R183). -/

namespace Sys2Proof.Machine

/-- The flags of `P` (10_state.md R26). -/
inductive Flag
  | c | z | i | d | b | u | v | n
deriving DecidableEq, Repr

/-- The bit of `P` a flag stands at (R26). -/
def Flag.bit : Flag → Nat
  | .c => 0
  | .z => 1
  | .i => 2
  | .d => 3
  | .b => 4
  | .u => 5
  | .v => 6
  | .n => 7

/-- `P.f`. -/
def getFlag (p : Byte) (f : Flag) : Bool := p.getLsbD f.bit

/-- `P` with `P.f <- v`. -/
def withFlag (p : Byte) (f : Flag) (v : Bool) : Byte :=
  if v then p ||| (1#8 <<< f.bit) else p &&& ~~~(1#8 <<< f.bit)

/-- `P.f` of the live register, and `P.f <- v` on it. -/
def State.flag (s : State) (f : Flag) : Bool := getFlag s.p f
def State.setFlag (s : State) (f : Flag) (v : Bool) : State := s.setP (withFlag s.p f v)

/-- `SetZN(v)` (00_scope.md R12). -/
def State.setZN (s : State) (v : Byte) : State :=
  (s.setFlag .z (v == 0)).setFlag .n (v.getLsbD 7)

/-- The number a carry stands for. -/
def carryNat (c : Bool) : Nat := if c then 1 else 0

/-- The adder's sum `t = A + v + P.C`, 9 bits or more (R192). -/
def adderSum (a v : Byte) (c : Bool) : Nat := a.toNat + v.toNat + carryNat c

/-- `t[7:0]`. -/
def adderByte (a v : Byte) (c : Bool) : Byte := BitVec.ofNat 8 (adderSum a v c)

/-- Signed overflow of the adder, `((NOT (A XOR m)) AND (A XOR t))[7]` (R192). -/
def adderOverflow (a v t : Byte) : Bool := ((~~~(a ^^^ v)) &&& (a ^^^ t)).getLsbD 7

/-- Signed overflow as SBC writes it, `((t XOR A) AND (t XOR v))[7]` (R193). -/
def subtractOverflow (a v t : Byte) : Bool := ((t ^^^ a) &&& (t ^^^ v)).getLsbD 7

/-- ADC's assignments for operand `m`: C, Z, V, N, then A (R192). -/
def State.addWithCarry (s : State) (m : Byte) : State :=
  let t := adderByte s.a m (s.flag .c)
  ((((s.setFlag .c (decide (0xFF < adderSum s.a m (s.flag .c)))).setFlag .z (t == 0)).setFlag .v
    (adderOverflow s.a m t)).setFlag .n (t.getLsbD 7)).setA t

/-- SBC's assignments for operand `m`: the adder on the one's complement (R193). -/
def State.subtractWithCarry (s : State) (m : Byte) : State :=
  let v := m ^^^ 0xFF
  let t := adderByte s.a v (s.flag .c)
  ((((s.setFlag .c (decide (0xFF < adderSum s.a v (s.flag .c)))).setFlag .z (t == 0)).setFlag .v
    (subtractOverflow s.a v t)).setFlag .n (t.getLsbD 7)).setA t

/-- `Compare(r, m)` (R194). -/
def State.compare (s : State) (r m : Byte) : State :=
  let t : Word := r.setWidth 16 - m.setWidth 16
  ((s.setFlag .c (decide (m ≤ r))).setFlag .z (t.setWidth 8 == 0#8)).setFlag .n (t.getLsbD 7)

/-- BIT's assignments for operand `m` (42_logic.md R183). -/
def State.bitTest (s : State) (m : Byte) : State :=
  ((s.setFlag .z (s.a &&& m == 0)).setFlag .n (m.getLsbD 7)).setFlag .v (m.getLsbD 6)

/-- A shift's 8-bit result and the bit it moves into C (44_shift_rotate.md R211 to R214); `c` is the old carry. -/
def shiftLeft (m : Byte) : Byte × Bool := (m <<< 1, m.getLsbD 7)
def shiftRight (m : Byte) : Byte × Bool := (m >>> 1, m.getLsbD 0)
def rotateLeft (c : Bool) (m : Byte) : Byte × Bool := ((m <<< 1) ||| (if c then 0x01 else 0x00), m.getLsbD 7)
def rotateRight (c : Bool) (m : Byte) : Byte × Bool := ((if c then 0x80 else 0x00) ||| (m >>> 1), m.getLsbD 0)

end Sys2Proof.Machine
end

