-- ==== Sys2Proof/Machine/Operands.lean ====
section
/-! DEFINITION. The 12 addressing modes (40_addressing_modes.md R132 to R147): the effective address of each operand
form, its page-crossing report, the resolver, the source operand and the destination of a read-modify-write. An
operand form carries the operand bytes already fetched at PC, PC + 1 (30_encoding.md R101). -/

namespace Sys2Proof.Machine

/-- `zext_16` and `sext_16` (00_scope.md R12). -/
def zext16 (b : Byte) : Word := b.setWidth 16
def sext16 (b : Byte) : Word := b.signExtend 16

/-- A zero-page pointer's 16-bit value: low byte at `t`, high byte at `(t + 1) mod 256`, both in page 0
(R142, R143). -/
def zeroPagePointer (s : State) (t : Byte) : Word :=
  word (memRead s (zext16 (t + 1))) (memRead s (zext16 t))

/-- The value at a 16-bit pointer with the page-wrap defect of IND (R141). -/
def indirectPointer (s : State) (lo hi : Byte) : Word :=
  if lo = 0xFF then word (memRead s (word hi lo &&& 0xFF00)) (memRead s (word hi lo))
  else word (memRead s (word hi lo + 1)) (memRead s (word hi lo))

/-- The un-indexed 16-bit base of an indexed form (R139, R140, R143). -/
def baseAddress (s : State) : Operand → Word
  | .abx lo hi | .aby lo hi => word hi lo
  | .izy b1 => zeroPagePointer s b1
  | _ => 0

/-- `EA` as the resolver of a form computes it, in the state whose PC is at the first operand byte; IMP and REL do not
set it (R132 to R143). -/
def effectiveAddress (s : State) : Operand → Word
  | .imp => s.ea
  | .imm _ => s.pc
  | .zp0 b1 => zext16 b1
  | .zpx b1 => zext16 (b1 + s.x)
  | .zpy b1 => zext16 (b1 + s.y)
  | .rel _ => s.ea
  | .abs lo hi => word hi lo
  | .abx lo hi => word hi lo + zext16 s.x
  | .aby lo hi => word hi lo + zext16 s.y
  | .ind lo hi => indirectPointer s lo hi
  | .izx b1 => zeroPagePointer s (b1 + s.x)
  | .izy b1 => zeroPagePointer s b1 + zext16 s.y

/-- The page-crossing report: only ABX, ABY and IZY can report a crossing (R144). -/
def crossesPage (s : State) (m : Operand) : Bool :=
  match m with
  | .abx _ _ | .aby _ _ | .izy _ => hiByte (effectiveAddress s m) != hiByte (baseAddress s m)
  | .imp | .imm _ | .zp0 _ | .zpx _ | .zpy _ | .rel _ | .abs _ _ | .ind _ _ | .izx _ => false

/-- `Resolve(mode)`: PC past the operand bytes, and the latch the mode writes (R132 to R143). -/
def resolve (s : State) (m : Operand) : State :=
  let next := s.pc + BitVec.ofNat 16 m.mode.operandBytes
  match m with
  | .imp => s.setFetched s.a
  | .rel b1 => (s.setRel (sext16 b1)).setPc next
  | .imm _ | .zp0 _ | .zpx _ | .zpy _ | .abs _ _ | .abx _ _ | .aby _ _ | .ind _ _ | .izx _ | .izy _ =>
    (s.setEa (effectiveAddress s m)).setPc next

/-- `Operand()` (R146): `A` in mode IMP, the operand byte of an immediate (the byte at `EA`, R133), else the byte at
`EA`. -/
def operandValue (s : State) : Operand → Byte
  | .imp => s.a
  | .imm b1 => b1
  | .zp0 _ | .zpx _ | .zpy _ | .rel _ | .abs _ _ | .abx _ _ | .aby _ _ | .ind _ _ | .izx _ | .izy _ =>
    memRead s s.ea

/-- `StoreResult(v)` (R147): `A` in mode IMP, else memory at `EA`. -/
def storeResult (s : State) (m : Operand) (v : Byte) : State :=
  match m with
  | .imp => s.setA v
  | .imm _ | .zp0 _ | .zpx _ | .zpy _ | .rel _ | .abs _ _ | .abx _ _ | .aby _ _ | .ind _ _ | .izx _ | .izy _ =>
    memWrite s s.ea v

end Sys2Proof.Machine
end

