-- ==== Sys2Proof/Machine/Ops.lean ====
section
/-! DEFINITION. The named operations every instruction and event is built from: the stack (10_state.md R24, R25),
taking an interrupt or trap and returning from one (60_exceptions.md R294, 48_system.md R265, R268), reset
(70_reset_and_hazards.md R320), the base cycle counts (30_encoding.md R110) and the dispatch sequence around an
operation (40_addressing_modes.md R130, R131). -/

namespace Sys2Proof.Machine

/-- The stack location SP designates, `0x0100 + SP` (10_state.md R23). -/
def stackAddress (s : State) : Word := 0x0100 + zext16 s.sp

/-- `Push(v)`: store, then decrement (10_state.md R24). -/
def push (s : State) (v : Byte) : State :=
  let t := memWrite s (stackAddress s) v
  t.setSp (t.sp - 1)

/-- `Pop()`: increment, then read; the byte and the state after it (10_state.md R25). -/
def pop (s : State) : Byte × State :=
  let t := s.setSp (s.sp + 1)
  (memRead t (stackAddress t), t)

/-- A 16-bit value pushed high byte first (20_memory.md R88). -/
def push16 (s : State) (v : Word) : State := push (push s (hiByte v)) (loByte v)

/-- Two bytes popped, low byte first (46_jump_subroutine.md R238). -/
def pop16 (s : State) : Word × State :=
  let lo := pop s
  let hi := pop lo.2
  (word hi.1 lo.1, hi.2)

/-- Taking an interrupt or the BRK trap, the sequence the three share: push PC, then P with B as given and U set, then
clear B and set I in the live register, then load PC from the vector (60_exceptions.md R294, R299; 48_system.md R265:
BRK finds U already set by its dispatch). The vector is read after the pushes (20_memory.md R96). -/
def enterHandler (s : State) (vector : Word) (brk : Bool) : State :=
  let pushedPc := push16 s s.pc
  let marked := (pushedPc.setFlag .b brk).setFlag .u true
  let pushedP := push marked marked.p
  let masked := (pushedP.setFlag .b false).setFlag .i true
  masked.setPc (memRead16 masked vector)

/-- `Enter(vector, cycles)` (60_exceptions.md R294). -/
def enterInterrupt (s : State) (vector : Word) (cycles : Nat) : State :=
  (enterHandler s vector false).setCyc cycles

/-- The `irq` event: entered when I is clear, discarded otherwise (60_exceptions.md R292). -/
def irq (s : State) : State :=
  if s.flag .i = false then enterInterrupt s Config.irqVector Config.irqCycles else s

/-- The `nmi` event: entered unconditionally (60_exceptions.md R293). -/
def nmi (s : State) : State := enterInterrupt s Config.nmiVector Config.nmiCycles

/-- `P <- Pop() OR 0x20`, the status restored by PLP and RTI (47_stack_flags.md R248, 48_system.md R268). -/
def popStatus (s : State) : State :=
  let r := pop s
  r.2.setP (r.1 ||| 0x20)

/-- The return from an interrupt or trap: status, then PC, with no increment (48_system.md R268). -/
def returnFromHandler (s : State) : State :=
  let r := pop16 (popStatus s)
  r.2.setPc r.1

/-- The `reset` event (70_reset_and_hazards.md R320): the vector is read through the bus at the time of the reset;
memory, the cartridge, TICKS and the parameters are left alone (R321). -/
def resetEvent (s : State) : State :=
  { s with
    pc := memRead16 s Config.resetVector
    a := 0x00
    x := 0x00
    y := 0x00
    sp := 0xFD
    p := 0x20
    ea := 0
    rel := 0
    fetched := 0
    cyc := Config.resetCycles }

/-- The supplied or default base cycle count at an opcode byte (30_encoding.md R110). -/
def baseCyclesAt (p : Params) (b : Byte) : Nat :=
  match p.baseCycles.find? fun e => e.1 == b with
  | some e => e.2
  | none => defaultBaseCycles b

/-- The base cycle count of an operation in a mode; 0 for a pair the decode table does not hold
(notes/assumptions/9.md). -/
def baseCycles (p : Params) (o : Op) (m : Mode) : Nat :=
  match opcodeOf o m with
  | some b => baseCyclesAt p b
  | none => 0

/-- `req`: the operations that pay the page-crossing cycle (40_addressing_modes.md R145). -/
def requestsPageCycle : Op → Bool
  | .lda | .ldx | .ldy | .and | .ora | .eor | .adc | .sbc | .cmp | .lax => true
  | .sta | .stx | .sty | .tax | .tay | .txa | .tya | .tsx | .txs | .bit
  | .cpx | .cpy | .inc | .dec | .inx | .iny | .dex | .dey | .asl | .lsr | .rol | .ror
  | .bcc | .bcs | .beq | .bne | .bmi | .bpl | .bvc | .bvs | .jmp | .jsr | .rts
  | .pha | .pla | .php | .plp | .clc | .sec | .cli | .sei | .cld | .sed | .clv
  | .brk | .rti | .nop | .sax | .dcp | .isb | .slo => false

/-- The part of `Step` before the resolver: PC past the opcode byte, CYC set to the base count, U forced to 1
(40_addressing_modes.md R130). -/
def beginDispatch (s : State) (base : Nat) : State :=
  ((s.setPc (s.pc + 1)).setCyc base).setFlag .u true

/-- The state an operation finds: the resolver has run (R130). -/
def dispatched (s : State) (base : Nat) (m : Operand) : State := resolve (beginDispatch s base) m

/-- The cycle a page crossing adds: one when, and only when, both requests are made (R131). -/
def pageCycle (req crossed : Bool) : Nat := if req && crossed then 1 else 0

/-- `Step` after the fetch (R130): dispatch, resolve, execute, and the cost left in CYC (R131). `f` answers the state
after the operation and the cycles a taken branch adds. -/
def runEntry (s : State) (base : Nat) (req : Bool) (m : Operand) (f : State → State × Nat) : State :=
  let r := f (dispatched s base m)
  r.1.setCyc (r.1.cyc + pageCycle req (crossesPage (beginDispatch s base) m) + r.2)

/-- The meaning of an instruction: its operation run by the dispatch sequence with its base count. -/
def performWith (s : State) (o : Op) (m : Operand) (f : State → State × Nat) : Result :=
  .next (runEntry s (baseCycles s.params o m.mode) (requestsPageCycle o) m f)

/-- The same for an operation that adds no cycles of its own: every one but the branches (R131). -/
def perform (s : State) (o : Op) (m : Operand) (f : State → State) : Result :=
  performWith s o m fun t => (f t, 0)

end Sys2Proof.Machine
end

