-- ==== Sys2Proof/Machine/Arithmetic.lean ====
section
/-! DEFINITION. Arithmetic, compares, increments and decrements (43_arithmetic.md). Each
instruction is its operation, run on the state the dispatch leaves (40_addressing_modes.md R130). -/

namespace Sys2Proof.Machine

/-- ADC (R192), binary whatever D holds (R191). -/
def opAdc (m : Operand) (s : State) : State :=
  s.addWithCarry (operandValue s m)
def execAdc (m : Operand) (s : State) : Host.Outcome State Fault Refusal := perform s .adc m (opAdc m)

/-- SBC (R193), binary whatever D holds (R191). -/
def opSbc (m : Operand) (s : State) : State :=
  s.subtractWithCarry (operandValue s m)
def execSbc (m : Operand) (s : State) : Host.Outcome State Fault Refusal := perform s .sbc m (opSbc m)

/-- CMP (R195). -/
def opCmp (m : Operand) (s : State) : State :=
  s.compare s.a (operandValue s m)
def execCmp (m : Operand) (s : State) : Host.Outcome State Fault Refusal := perform s .cmp m (opCmp m)

/-- CPX (R196). -/
def opCpx (m : Operand) (s : State) : State :=
  s.compare s.x (operandValue s m)
def execCpx (m : Operand) (s : State) : Host.Outcome State Fault Refusal := perform s .cpx m (opCpx m)

/-- CPY (R197). -/
def opCpy (m : Operand) (s : State) : State :=
  s.compare s.y (operandValue s m)
def execCpy (m : Operand) (s : State) : Host.Outcome State Fault Refusal := perform s .cpy m (opCpy m)

/-- INC (R198): one read and one write of `EA`. -/
def opInc (m : Operand) (s : State) : State :=
  let v := operandValue s m + 1
  (memWrite s s.ea v).setZN v
def execInc (m : Operand) (s : State) : Host.Outcome State Fault Refusal := perform s .inc m (opInc m)

/-- DEC (R199). -/
def opDec (m : Operand) (s : State) : State :=
  let v := operandValue s m - 1
  (memWrite s s.ea v).setZN v
def execDec (m : Operand) (s : State) : Host.Outcome State Fault Refusal := perform s .dec m (opDec m)

/-- INX (R200). -/
def opInx (s : State) : State :=
  (s.setX (s.x + 1)).setZN (s.x + 1)
def execInx (s : State) : Host.Outcome State Fault Refusal := perform s .inx .imp opInx

/-- INY (R201). -/
def opIny (s : State) : State :=
  (s.setY (s.y + 1)).setZN (s.y + 1)
def execIny (s : State) : Host.Outcome State Fault Refusal := perform s .iny .imp opIny

/-- DEX (R202). -/
def opDex (s : State) : State :=
  (s.setX (s.x - 1)).setZN (s.x - 1)
def execDex (s : State) : Host.Outcome State Fault Refusal := perform s .dex .imp opDex

/-- DEY (R203). -/
def opDey (s : State) : State :=
  (s.setY (s.y - 1)).setZN (s.y - 1)
def execDey (s : State) : Host.Outcome State Fault Refusal := perform s .dey .imp opDey

end Sys2Proof.Machine
end

