-- ==== Sys2Proof/Machine/Branch.lean ====
section
/-! DEFINITION. Conditional branches (45_branch.md). The resolver of REL has set `REL` and left PC at the following
instruction (R137). -/

namespace Sys2Proof.Machine

/-- `Branch(cond)` (R220): the state after it and the cycles it adds. -/
def branch (s : State) (cond : Bool) : State × Nat :=
  let target := s.pc + s.rel
  if cond then (s.setPc target, if hiByte target = hiByte s.pc then 1 else 2) else (s, 0)

/-- BCC (R221). -/
def opBcc (s : State) : State × Nat := branch s (!s.flag .c)
def execBcc (off : Byte) (s : State) : Host.Outcome State Fault Refusal := performWith s .bcc (.rel off) opBcc

/-- BCS (R222). -/
def opBcs (s : State) : State × Nat := branch s (s.flag .c)
def execBcs (off : Byte) (s : State) : Host.Outcome State Fault Refusal := performWith s .bcs (.rel off) opBcs

/-- BEQ (R223). -/
def opBeq (s : State) : State × Nat := branch s (s.flag .z)
def execBeq (off : Byte) (s : State) : Host.Outcome State Fault Refusal := performWith s .beq (.rel off) opBeq

/-- BNE (R224). -/
def opBne (s : State) : State × Nat := branch s (!s.flag .z)
def execBne (off : Byte) (s : State) : Host.Outcome State Fault Refusal := performWith s .bne (.rel off) opBne

/-- BMI (R225). -/
def opBmi (s : State) : State × Nat := branch s (s.flag .n)
def execBmi (off : Byte) (s : State) : Host.Outcome State Fault Refusal := performWith s .bmi (.rel off) opBmi

/-- BPL (R226). -/
def opBpl (s : State) : State × Nat := branch s (!s.flag .n)
def execBpl (off : Byte) (s : State) : Host.Outcome State Fault Refusal := performWith s .bpl (.rel off) opBpl

/-- BVC (R227). -/
def opBvc (s : State) : State × Nat := branch s (!s.flag .v)
def execBvc (off : Byte) (s : State) : Host.Outcome State Fault Refusal := performWith s .bvc (.rel off) opBvc

/-- BVS (R228). -/
def opBvs (s : State) : State × Nat := branch s (s.flag .v)
def execBvs (off : Byte) (s : State) : Host.Outcome State Fault Refusal := performWith s .bvs (.rel off) opBvs

end Sys2Proof.Machine
end

