-- ==== Sys2Proof/Machine/Jump.lean ====
section
/-! DEFINITION. Jumps and subroutines (46_jump_subroutine.md). Each
instruction is its operation, run on the state the dispatch leaves (40_addressing_modes.md R130). -/

namespace Sys2Proof.Machine

/-- JMP, absolute and indirect (R235, R236): the resolver has put the target in `EA`. -/
def opJmp (s : State) : State :=
  s.setPc s.ea
def execJmp (m : Operand) (s : State) : Host.Outcome State Fault Refusal := perform s .jmp m opJmp

/-- JSR (R237): pushes the address of its own last byte; the operand bytes were fetched before the pushes. -/
def opJsr (s : State) : State :=
  (push16 s (s.pc - 1)).setPc s.ea
def execJsr (lo hi : Byte) (s : State) : Host.Outcome State Fault Refusal := perform s .jsr (.abs lo hi) opJsr

/-- RTS (R238). -/
def opRts (s : State) : State :=
  let r := pop16 s
  r.2.setPc (r.1 + 1)
def execRts (s : State) : Host.Outcome State Fault Refusal := perform s .rts .imp opRts

end Sys2Proof.Machine
end

