-- ==== Sys2Proof/Machine/LoadStore.lean ====
section
/-! DEFINITION. Loads, stores and register transfers (41_load_store_transfer.md). Each
instruction is its operation, run on the state the dispatch leaves (40_addressing_modes.md R130). -/

namespace Sys2Proof.Machine

/-- LDA (R161). -/
def opLda (m : Operand) (s : State) : State :=
  let v := operandValue s m
  (s.setA v).setZN v
def execLda (m : Operand) (s : State) : Host.Outcome State Fault Refusal := perform s .lda m (opLda m)

/-- LDX (R162). -/
def opLdx (m : Operand) (s : State) : State :=
  let v := operandValue s m
  (s.setX v).setZN v
def execLdx (m : Operand) (s : State) : Host.Outcome State Fault Refusal := perform s .ldx m (opLdx m)

/-- LDY (R163). -/
def opLdy (m : Operand) (s : State) : State :=
  let v := operandValue s m
  (s.setY v).setZN v
def execLdy (m : Operand) (s : State) : Host.Outcome State Fault Refusal := perform s .ldy m (opLdy m)

/-- STA (R164): nothing is read at `EA`. -/
def opSta (s : State) : State :=
  memWrite s s.ea s.a
def execSta (m : Operand) (s : State) : Host.Outcome State Fault Refusal := perform s .sta m opSta

/-- STX (R165). -/
def opStx (s : State) : State :=
  memWrite s s.ea s.x
def execStx (m : Operand) (s : State) : Host.Outcome State Fault Refusal := perform s .stx m opStx

/-- STY (R166). -/
def opSty (s : State) : State :=
  memWrite s s.ea s.y
def execSty (m : Operand) (s : State) : Host.Outcome State Fault Refusal := perform s .sty m opSty

/-- TAX (R167). -/
def opTax (s : State) : State :=
  (s.setX s.a).setZN s.a
def execTax (s : State) : Host.Outcome State Fault Refusal := perform s .tax .imp opTax

/-- TAY (R168). -/
def opTay (s : State) : State :=
  (s.setY s.a).setZN s.a
def execTay (s : State) : Host.Outcome State Fault Refusal := perform s .tay .imp opTay

/-- TXA (R169). -/
def opTxa (s : State) : State :=
  (s.setA s.x).setZN s.x
def execTxa (s : State) : Host.Outcome State Fault Refusal := perform s .txa .imp opTxa

/-- TYA (R170). -/
def opTya (s : State) : State :=
  (s.setA s.y).setZN s.y
def execTya (s : State) : Host.Outcome State Fault Refusal := perform s .tya .imp opTya

/-- TSX (R171). -/
def opTsx (s : State) : State :=
  (s.setX s.sp).setZN s.sp
def execTsx (s : State) : Host.Outcome State Fault Refusal := perform s .tsx .imp opTsx

/-- TXS (R172): no flag. -/
def opTxs (s : State) : State :=
  s.setSp s.x
def execTxs (s : State) : Host.Outcome State Fault Refusal := perform s .txs .imp opTxs

end Sys2Proof.Machine
end

