-- ==== Sys2Proof/Machine/Logic.lean ====
section
/-! DEFINITION. Logic instructions (42_logic.md). Each
instruction is its operation, run on the state the dispatch leaves (40_addressing_modes.md R130). -/

namespace Sys2Proof.Machine

/-- AND (R180). -/
def opAnd (m : Operand) (s : State) : State :=
  let v := s.a &&& operandValue s m
  (s.setA v).setZN v
def execAnd (m : Operand) (s : State) : Host.Outcome State Fault Refusal := perform s .and m (opAnd m)

/-- ORA (R181). -/
def opOra (m : Operand) (s : State) : State :=
  let v := s.a ||| operandValue s m
  (s.setA v).setZN v
def execOra (m : Operand) (s : State) : Host.Outcome State Fault Refusal := perform s .ora m (opOra m)

/-- EOR (R182). -/
def opEor (m : Operand) (s : State) : State :=
  let v := s.a ^^^ operandValue s m
  (s.setA v).setZN v
def execEor (m : Operand) (s : State) : Host.Outcome State Fault Refusal := perform s .eor m (opEor m)

/-- BIT (R183). -/
def opBit (m : Operand) (s : State) : State :=
  s.bitTest (operandValue s m)
def execBit (m : Operand) (s : State) : Host.Outcome State Fault Refusal := perform s .bit m (opBit m)

end Sys2Proof.Machine
end

