-- ==== Sys2Proof/Machine/Shift.lean ====
section
/-! DEFINITION. Shifts and rotates (44_shift_rotate.md). Each
instruction is its operation, run on the state the dispatch leaves (40_addressing_modes.md R130). -/

namespace Sys2Proof.Machine

/-- The assignments the four share: C from the bit moved out, Z and N from the result, then the result to A or to
memory (R210). -/
def shiftResult (s : State) (m : Operand) (r : Byte × Bool) : State :=
  storeResult ((s.setFlag .c r.2).setZN r.1) m r.1

/-- ASL (R211). -/
def opAsl (m : Operand) (s : State) : State :=
  shiftResult s m (shiftLeft (operandValue s m))
def execAsl (m : Operand) (s : State) : Host.Outcome State Fault Refusal := perform s .asl m (opAsl m)

/-- LSR (R212). -/
def opLsr (m : Operand) (s : State) : State :=
  shiftResult s m (shiftRight (operandValue s m))
def execLsr (m : Operand) (s : State) : Host.Outcome State Fault Refusal := perform s .lsr m (opLsr m)

/-- ROL (R213): the old carry enters at bit 0. -/
def opRol (m : Operand) (s : State) : State :=
  shiftResult s m (rotateLeft (s.flag .c) (operandValue s m))
def execRol (m : Operand) (s : State) : Host.Outcome State Fault Refusal := perform s .rol m (opRol m)

/-- ROR (R214): the old carry enters at bit 7. -/
def opRor (m : Operand) (s : State) : State :=
  shiftResult s m (rotateRight (s.flag .c) (operandValue s m))
def execRor (m : Operand) (s : State) : Host.Outcome State Fault Refusal := perform s .ror m (opRor m)

end Sys2Proof.Machine
end

