-- ==== Sys2Proof/Machine/StackFlag.lean ====
section
/-! DEFINITION. Stack and flag instructions (47_stack_flags.md). Each
instruction is its operation, run on the state the dispatch leaves (40_addressing_modes.md R130). -/

namespace Sys2Proof.Machine

/-- PHA (R245). -/
def opPha (s : State) : State :=
  push s s.a
def execPha (s : State) : Host.Outcome State Fault Refusal := perform s .pha .imp opPha

/-- PLA (R246). -/
def opPla (s : State) : State :=
  let r := pop s
  (r.2.setA r.1).setZN r.1
def execPla (s : State) : Host.Outcome State Fault Refusal := perform s .pla .imp opPla

/-- PHP (R247): the pushed copy has B and U set, the live register has them cleared afterwards. -/
def opPhp (s : State) : State :=
  let t := push s (s.p ||| 0x30)
  (t.setFlag .b false).setFlag .u false
def execPhp (s : State) : Host.Outcome State Fault Refusal := perform s .php .imp opPhp

/-- PLP (R248). -/
def opPlp (s : State) : State :=
  popStatus s
def execPlp (s : State) : Host.Outcome State Fault Refusal := perform s .plp .imp opPlp

/-- CLC (R249). -/
def opClc (s : State) : State :=
  s.setFlag .c false
def execClc (s : State) : Host.Outcome State Fault Refusal := perform s .clc .imp opClc

/-- SEC (R250). -/
def opSec (s : State) : State :=
  s.setFlag .c true
def execSec (s : State) : Host.Outcome State Fault Refusal := perform s .sec .imp opSec

/-- CLI (R251). -/
def opCli (s : State) : State :=
  s.setFlag .i false
def execCli (s : State) : Host.Outcome State Fault Refusal := perform s .cli .imp opCli

/-- SEI (R252). -/
def opSei (s : State) : State :=
  s.setFlag .i true
def execSei (s : State) : Host.Outcome State Fault Refusal := perform s .sei .imp opSei

/-- CLD (R253). -/
def opCld (s : State) : State :=
  s.setFlag .d false
def execCld (s : State) : Host.Outcome State Fault Refusal := perform s .cld .imp opCld

/-- SED (R254). -/
def opSed (s : State) : State :=
  s.setFlag .d true
def execSed (s : State) : Host.Outcome State Fault Refusal := perform s .sed .imp opSed

/-- CLV (R255). -/
def opClv (s : State) : State :=
  s.setFlag .v false
def execClv (s : State) : Host.Outcome State Fault Refusal := perform s .clv .imp opClv

end Sys2Proof.Machine
end

