-- ==== Sys2Proof/Machine/System.lean ====
section
/-! DEFINITION. BRK, RTI and NOP (48_system.md). Each
instruction is its operation, run on the state the dispatch leaves (40_addressing_modes.md R130). -/

namespace Sys2Proof.Machine

/-- BRK (R265): PC past the signature byte, which is not read (R103), then the trap. -/
def opBrk (s : State) : State :=
  enterHandler (s.setPc (s.pc + 1)) Config.irqVector true
def execBrk (s : State) : Host.Outcome State Fault Refusal := perform s .brk .imp opBrk

/-- RTI (R268). -/
def opRti (s : State) : State :=
  returnFromHandler s
def execRti (s : State) : Host.Outcome State Fault Refusal := perform s .rti .imp opRti

/-- NOP (R270). -/
def opNop (s : State) : State :=
  s
def execNop (s : State) : Host.Outcome State Fault Refusal := perform s .nop .imp opNop

end Sys2Proof.Machine
end

