-- ==== Sys2Proof/Machine/Undocumented.lean ====
section
/-! DEFINITION. LAX, SAX, DCP, ISB, SLO and the undefined opcode bytes (49_illegal.md). Each
instruction is its operation, run on the state the dispatch leaves (40_addressing_modes.md R130). -/

namespace Sys2Proof.Machine

/-- LAX (R276). -/
def opLax (m : Operand) (s : State) : State :=
  let v := operandValue s m
  ((s.setA v).setX v).setZN v
def execLax (m : Operand) (s : State) : Host.Outcome State Fault Refusal := perform s .lax m (opLax m)

/-- SAX (R277): no flag, nothing read at `EA`. -/
def opSax (s : State) : State :=
  memWrite s s.ea (s.a &&& s.x)
def execSax (m : Operand) (s : State) : Host.Outcome State Fault Refusal := perform s .sax m opSax

/-- DCP (R278). -/
def opDcp (m : Operand) (s : State) : State :=
  let v := operandValue s m - 1
  (memWrite s s.ea v).compare s.a v
def execDcp (m : Operand) (s : State) : Host.Outcome State Fault Refusal := perform s .dcp m (opDcp m)

/-- ISB (R279). -/
def opIsb (m : Operand) (s : State) : State :=
  let v := operandValue s m + 1
  (memWrite s s.ea v).subtractWithCarry v
def execIsb (m : Operand) (s : State) : Host.Outcome State Fault Refusal := perform s .isb m (opIsb m)

/-- SLO (R280): Z and N from the new A. -/
def opSlo (m : Operand) (s : State) : State :=
  let v := operandValue s m
  let r := memWrite s s.ea (v <<< 1)
  let w := r.a ||| (v <<< 1)
  ((r.setFlag .c (v.getLsbD 7)).setA w).setZN w
def execSlo (m : Operand) (s : State) : Host.Outcome State Fault Refusal := perform s .slo m (opSlo m)

/-- The operation of each tag, the second of the two dispatch tables of 30_encoding.md R105: the state after it and the
cycles a taken branch adds. -/
def operationOf (o : Op) (m : Operand) (s : State) : State × Nat :=
  match o with
  | .lda => (opLda m s, 0)
  | .ldx => (opLdx m s, 0)
  | .ldy => (opLdy m s, 0)
  | .sta => (opSta s, 0)
  | .stx => (opStx s, 0)
  | .sty => (opSty s, 0)
  | .tax => (opTax s, 0)
  | .tay => (opTay s, 0)
  | .txa => (opTxa s, 0)
  | .tya => (opTya s, 0)
  | .tsx => (opTsx s, 0)
  | .txs => (opTxs s, 0)
  | .and => (opAnd m s, 0)
  | .ora => (opOra m s, 0)
  | .eor => (opEor m s, 0)
  | .bit => (opBit m s, 0)
  | .adc => (opAdc m s, 0)
  | .sbc => (opSbc m s, 0)
  | .cmp => (opCmp m s, 0)
  | .cpx => (opCpx m s, 0)
  | .cpy => (opCpy m s, 0)
  | .inc => (opInc m s, 0)
  | .dec => (opDec m s, 0)
  | .inx => (opInx s, 0)
  | .iny => (opIny s, 0)
  | .dex => (opDex s, 0)
  | .dey => (opDey s, 0)
  | .asl => (opAsl m s, 0)
  | .lsr => (opLsr m s, 0)
  | .rol => (opRol m s, 0)
  | .ror => (opRor m s, 0)
  | .bcc => opBcc s
  | .bcs => opBcs s
  | .beq => opBeq s
  | .bne => opBne s
  | .bmi => opBmi s
  | .bpl => opBpl s
  | .bvc => opBvc s
  | .bvs => opBvs s
  | .jmp => (opJmp s, 0)
  | .jsr => (opJsr s, 0)
  | .rts => (opRts s, 0)
  | .pha => (opPha s, 0)
  | .pla => (opPla s, 0)
  | .php => (opPhp s, 0)
  | .plp => (opPlp s, 0)
  | .clc => (opClc s, 0)
  | .sec => (opSec s, 0)
  | .cli => (opCli s, 0)
  | .sei => (opSei s, 0)
  | .cld => (opCld s, 0)
  | .sed => (opSed s, 0)
  | .clv => (opClv s, 0)
  | .brk => (opBrk s, 0)
  | .rti => (opRti s, 0)
  | .nop => (opNop s, 0)
  | .lax => (opLax m s, 0)
  | .sax => (opSax s, 0)
  | .dcp => (opDcp m s, 0)
  | .isb => (opIsb m s, 0)
  | .slo => (opSlo m s, 0)

/-- The entry `UNDEF_ENTRY` supplies for an undefined opcode byte (00_scope.md R6). -/
def suppliedEntry (p : Params) (b : Byte) : Option DecodeEntry :=
  p.undefEntry.find? fun e => e.opcode == b

/-- UNDEFINED (R285): refused by name when `UNDEF_ENTRY` supplies no entry; a supplied entry runs like any other entry
of the table, its operand bytes fetched after the opcode byte. DESIGN CHOICE (notes/assumptions/4.md): R285 restricts no
pair, so an entry may name a mode that sets no latch its operation reads (STA in IMP, a branch in ABS); the operation
then reads the `EA` or `REL` an earlier instruction left, for which R34 and decision D26 give no value. -/
def execUndefined (b : Byte) (s : State) : Host.Outcome State Fault Refusal :=
  match suppliedEntry s.params b with
  | none => .refused (.undefinedOpcode b)
  | some e =>
    let m := Operand.ofBytes e.mode (memRead s (s.pc + 1)) (memRead s (s.pc + 2))
    .next (runEntry s e.cycles (requestsPageCycle e.op) m (operationOf e.op m))

end Sys2Proof.Machine
end

