-- ==== Sys2Proof/Machine/Clock.lean ====
section
/-! DEFINITION. Running instructions and ticks: the fetch, one `Step` of the block (40_addressing_modes.md R130), the
CPU tick and the SystemClock tick (70_reset_and_hazards.md R325, R330), `advance` (R331), and one input event
(00_scope.md R8). -/

namespace Sys2Proof.Machine

/-- The instruction at PC: three bytes are read, and those the opcode byte does not ask for are not used; reads change
nothing (20_memory.md R90). -/
def fetchInstr (s : State) : Instr :=
  decodeBytes (memRead s s.pc) (memRead s (s.pc + 1)) (memRead s (s.pc + 2))

/-- A cartridge the model has a policy for, or none (00_scope.md R6, R11). -/
def cartridgeOk (s : State) : Bool :=
  match s.cart with
  | some c => c.supported
  | none => true

/-- `Refused(BadCartridge)` in front of anything the block does (00_scope.md R11). -/
def withCartridge (s : State) (r : Result) : Result :=
  if cartridgeOk s then r else .refused .badCartridge

/-- `Step`: fetch, decode and complete one instruction (40_addressing_modes.md R130). -/
def runInstruction (s : State) : Result :=
  withCartridge s (exec (fetchInstr s) s)

/-- `CYC <- CYC - 1` (70_reset_and_hazards.md R325). -/
def countDown (s : State) : State := s.setCyc (s.cyc - 1)

/-- The `tick` event: dispatch when idle, then count down (70_reset_and_hazards.md R325). -/
def tick (s : State) : Result :=
  if s.cyc = 0 then
    match runInstruction s with
    | .next t => .next (countDown t)
    | .fault r => .fault r
    | .refused r => .refused r
  else withCartridge s (.next (countDown s))

/-- `TICKS <- TICKS + 1`. -/
def countTick (s : State) : State := s.setTicks (s.ticks + 1)

/-- A SystemClock tick: the CPU is ticked on every third one (70_reset_and_hazards.md R330); the video stub touches
nothing of the block. -/
def sysclockTick (s : State) : Result :=
  if s.ticks % Config.clockRatio = 0 then
    match tick s with
    | .next t => .next (countTick t)
    | .fault r => .fault r
    | .refused r => .refused r
  else withCartridge s (.next (countTick s))

/-- Whether the next SystemClock tick dispatches an instruction (70_reset_and_hazards.md R331). -/
def willDispatch (s : State) : Bool := decide (s.ticks % Config.clockRatio = 0) && decide (s.cyc = 0)

/-- The first part of the loop of `advance`: SystemClock ticks up to and including the one that dispatches. -/
def tickToDispatch : Nat → State → Result
  | 0, s => .next s
  | k + 1, s =>
    match sysclockTick s with
    | .next t => if willDispatch s then .next t else tickToDispatch k t
    | .fault r => .fault r
    | .refused r => .refused r

/-- The second part: SystemClock ticks until `CYC = 0`. -/
def tickToIdle : Nat → State → Result
  | 0, s => .next s
  | k + 1, s =>
    if s.cyc = 0 then .next s
    else
      match sysclockTick s with
      | .next t => tickToIdle k t
      | .fault r => .fault r
      | .refused r => .refused r

/-- `advance` (70_reset_and_hazards.md R331): ticks until one instruction has been dispatched and has counted down.
The two numbers of ticks are enough: `3 * CYC + 3` reach the dispatch, `3 * CYC` after it reach `CYC = 0`. -/
def advanceTicks (s : State) : Result :=
  match tickToDispatch (Config.clockRatio * s.cyc + Config.clockRatio) s with
  | .next t => tickToIdle (Config.clockRatio * t.cyc) t
  | .fault r => .fault r
  | .refused r => .refused r

/-- What `advance` reports: failure exactly when PC is at the sentinel (70_reset_and_hazards.md R331, R340). -/
inductive AdvanceReport
  | success
  | failure
deriving DecidableEq, Repr

def advanceReport (s : State) : AdvanceReport :=
  if s.params.sentinel = some s.pc then .failure else .success

/-- `advance` with its report. -/
def advance (s : State) : Host.Outcome (State × AdvanceReport) Fault Refusal :=
  match advanceTicks s with
  | .next t => .next (t, advanceReport t)
  | .fault r => .fault r
  | .refused r => .refused r

/-- One input event (00_scope.md R8). -/
def handleEvent (e : Event) (s : State) : Result :=
  match e with
  | .instruction => runInstruction s
  | .tick => tick s
  | .sysclockTick => sysclockTick s
  | .irq => withCartridge s (.next (irq s))
  | .nmi => withCartridge s (.next (nmi s))
  | .reset => withCartridge s (.next (resetEvent s))

/-- The next event of the schedule with the schedule after it; an empty schedule runs instructions. -/
def nextEvent (s : State) : Event × State :=
  match s.schedule with
  | [] => (.instruction, s)
  | e :: rest => (e, s.setSchedule rest)

/-- One step: the next event. -/
def stepEvent (s : State) : Result := handleEvent (nextEvent s).1 (nextEvent s).2

/-- Whether a byte stored at an address reads back (20_memory.md R67: a store to an unclaimed address is dropped). -/
def isStored (s : State) (addr : Word) : Bool := decide (locate s addr ≠ .dropped)

/-- Where a program byte sequence of three bytes can stand for the next fetch: PC, or 0x0000 in RAM where a byte at PC,
PC + 1 or PC + 2 would not be stored. -/
def placeAddress (s : State) : Word :=
  if isStored s s.pc && isStored s (s.pc + 1) && isStored s (s.pc + 2) then s.pc else 0x0000

/-- The state whose next step runs the instruction with bits `w`: the schedule holds no event before it, PC is where
the bytes can be stored, and the three bytes stand there (notes/assumptions/8.md). -/
def placeInstruction (s : State) (nbits w : Nat) : State :=
  let pc := placeAddress s
  let t := (s.setSchedule []).setPc pc
  let t := memWrite t pc (tableByte nbits w 0)
  let t := memWrite t (pc + 1) (tableByte nbits w 1)
  memWrite t (pc + 2) (tableByte nbits w 2)

end Sys2Proof.Machine
end

