-- ==== Sys2Proof/Machine/HostOps.lean ====
section
/-! DEFINITION. The host operations (70_reset_and_hazards.md R335 to R338): attaching a cartridge, loading a program,
reading a snapshot, disassembling. -/

namespace Sys2Proof.Machine

/-- A cartridge as the host supplies it (20_memory.md R85, 70_reset_and_hazards.md R335). -/
structure CartridgeImage where
  mapperId : Nat
  prgBanks : Nat
  chrBanks : Nat
  prg : List Byte
  chr : List Byte
deriving DecidableEq, Repr

/-- The size of the CHR array: 8 KiB of RAM when there is no CHR bank (10_state.md R38). -/
def chrSize (chrBanks : Nat) : Nat := if chrBanks = 0 then Config.chrBankSize else chrBanks * Config.chrBankSize

/-- The size of the PRG array (10_state.md R38). -/
def prgSize (prgBanks : Nat) : Nat := prgBanks * Config.prgBankSize

/-- The cartridges a model accepts (R335). -/
def CartridgeImage.accepted (c : CartridgeImage) : Bool :=
  decide (c.mapperId = 0) && decide (1 ≤ c.prgBanks) && decide (c.prg.length = prgSize c.prgBanks)
    && decide (c.chr.length = chrSize c.chrBanks)

/-- `attach_cartridge(c)` (R335). -/
def attachCartridge (c : CartridgeImage) (s : State) : Result :=
  if c.accepted then
    .next (s.setCart (some
      { mapperId := c.mapperId
        prgBanks := c.prgBanks
        chrBanks := c.chrBanks
        prg := Memory.ofBytes c.prg
        chr := Memory.ofBytes c.chr }))
  else .refused .badCartridge

/-- Bytes stored through the bus at consecutive addresses, modulo 65536 (R336). -/
def storeBytes (s : State) (base : Word) : List Byte → State
  | [] => s
  | b :: rest => storeBytes (memWrite s base b) (base + 1) rest

/-- `load_program(bytes, base)` (R336): the bytes, then the reset vector, all through the bus decoder; no reset. -/
def loadProgram (s : State) (bytes : List Byte) (base : Word) : State :=
  let t := storeBytes s base bytes
  let t := memWrite t Config.resetVector (loByte base)
  memWrite t (Config.resetVector + 1) (hiByte base)

/-- A snapshot the environment reads (R337): the bytes of RAM in index order. R337 gives no format; that it is RAM alone,
as a list of its 2048 bytes, is a DESIGN CHOICE (notes/assumptions/23.md). The environment reads everything else, as it
can RAM, from the state directly. -/
def readSnapshot (s : State) : List Byte := (List.range Config.ramSize).map s.ram.read

/-- A hexadecimal digit, and two and four of them (30_encoding.md R120: upper case). -/
def hexDigit (n : Nat) : Char :=
  if n < 10 then Char.ofNat (48 + n) else Char.ofNat (55 + n)
def hex2 (b : Byte) : String := String.ofList [hexDigit (b.toNat / 16), hexDigit (b.toNat % 16)]
def hex4 (w : Word) : String := hex2 (hiByte w) ++ hex2 (loByte w)

/-- The mnemonic of an operation tag, in the spelling of 30_encoding.md R108. -/
def mnemonic : Op → String
  | .lda => "LDA"
  | .ldx => "LDX"
  | .ldy => "LDY"
  | .sta => "STA"
  | .stx => "STX"
  | .sty => "STY"
  | .tax => "TAX"
  | .tay => "TAY"
  | .txa => "TXA"
  | .tya => "TYA"
  | .tsx => "TSX"
  | .txs => "TXS"
  | .and => "AND"
  | .ora => "ORA"
  | .eor => "EOR"
  | .bit => "BIT"
  | .adc => "ADC"
  | .sbc => "SBC"
  | .cmp => "CMP"
  | .cpx => "CPX"
  | .cpy => "CPY"
  | .inc => "INC"
  | .dec => "DEC"
  | .inx => "INX"
  | .iny => "INY"
  | .dex => "DEX"
  | .dey => "DEY"
  | .asl => "ASL"
  | .lsr => "LSR"
  | .rol => "ROL"
  | .ror => "ROR"
  | .bcc => "BCC"
  | .bcs => "BCS"
  | .beq => "BEQ"
  | .bne => "BNE"
  | .bmi => "BMI"
  | .bpl => "BPL"
  | .bvc => "BVC"
  | .bvs => "BVS"
  | .jmp => "JMP"
  | .jsr => "JSR"
  | .rts => "RTS"
  | .pha => "PHA"
  | .pla => "PLA"
  | .php => "PHP"
  | .plp => "PLP"
  | .clc => "CLC"
  | .sec => "SEC"
  | .cli => "CLI"
  | .sei => "SEI"
  | .cld => "CLD"
  | .sed => "SED"
  | .clv => "CLV"
  | .brk => "BRK"
  | .rti => "RTI"
  | .nop => "NOP"
  | .lax => "LAX"
  | .sax => "SAX"
  | .dcp => "DCP"
  | .isb => "ISB"
  | .slo => "SLO"

/-- The operand text of a form at an address (30_encoding.md R120); a branch shows its target. -/
def operandText (addr : Word) : Operand → String
  | .imp => ""
  | .imm b1 => " #$" ++ hex2 b1
  | .zp0 b1 => " $" ++ hex2 b1
  | .zpx b1 => " $" ++ hex2 b1 ++ ",X"
  | .zpy b1 => " $" ++ hex2 b1 ++ ",Y"
  | .rel b1 => " $" ++ hex4 (addr + 2 + sext16 b1)
  | .abs lo hi => " $" ++ hex4 (word hi lo)
  | .abx lo hi => " $" ++ hex4 (word hi lo) ++ ",X"
  | .aby lo hi => " $" ++ hex4 (word hi lo) ++ ",Y"
  | .ind lo hi => " ($" ++ hex4 (word hi lo) ++ ")"
  | .izx b1 => " ($" ++ hex2 b1 ++ ",X)"
  | .izy b1 => " ($" ++ hex2 b1 ++ "),Y"

/-- `disassemble` at one address: total, and it changes nothing (R338); an undefined byte shows a placeholder
(30_encoding.md R120; notes/assumptions/12.md). -/
def disassemble (s : State) (addr : Word) : String :=
  let i := decodeBytes (memRead s addr) (memRead s (addr + 1)) (memRead s (addr + 2))
  match i.op with
  | some o => mnemonic o ++ operandText addr i.operand
  | none => "???"

end Sys2Proof.Machine
end

