-- ==== Sys2Proof/Machine/Step.lean ====
section
/-! DEFINITION. The step of the machine, and the placing of one instruction for the host's questions. -/

namespace Sys2Proof.Machine

/-- One step: the next event of the environment's schedule, or one instruction when none is due (Machine/Clock.lean). -/
def step (s : State) : Host.Outcome State Fault Refusal := stepEvent s

/-- `s` with the instruction whose bits are `w` standing where the next step fetches it. -/
def State.withFetchWord (s : State) (nbits w : Nat) : State := placeInstruction s nbits w

end Sys2Proof.Machine
end

