-- ==== Sys2Proof/Safety.lean ====
section
/-! DEFINITION. What the claims are stated in: the invariant of the machine, the frame of an instruction (which
registers, flags and bytes of memory it may change), and the effects of the dispatch sequence every instruction
shares (40_addressing_modes.md R130). -/

namespace Sys2Proof.Machine

/-- The four 8-bit general registers (10_state.md R20 to R23). -/
inductive Reg
  | a | x | y | sp
deriving DecidableEq, Repr

def State.reg (s : State) : Reg → Byte
  | .a => s.a
  | .x => s.x
  | .y => s.y
  | .sp => s.sp

/-- Every register but the listed ones is unchanged. -/
def KeepsRegisters (written : List Reg) (s t : State) : Prop :=
  ∀ r, r ∉ written → t.reg r = s.reg r

/-- Every flag but the listed ones is unchanged, apart from U, which the dispatch of every instruction sets to 1
(10_state.md R28). -/
def KeepsFlags (written : List Flag) (s t : State) : Prop :=
  ∀ f, f ∉ written → f ≠ .u → t.flag f = s.flag f

/-- Z and N stand as `SetZN(v)` leaves them (00_scope.md R12): Z says that `v` is zero, N is its bit 7. -/
def ShowsZN (v : Byte) (t : State) : Prop :=
  t.flag .z = decide (v.toNat = 0) ∧ t.flag .n = decide (0x80 ≤ v.toNat)

/-- The geometry of the attached cartridge, which never changes after load (10_state.md R38). -/
def geometry (s : State) : Option (Nat × Nat × Nat) :=
  s.cart.map fun c => (c.mapperId, c.prgBanks, c.chrBanks)

/-- Two addresses reach one and the same storage byte (20_memory.md R92); a dropped access reaches none. -/
def sameStorage (s : State) (a b : Word) : Bool :=
  decide (locate s a = locate s b) && decide (locate s b ≠ .dropped)

/-- What an address reads as after a list of one-byte stores, the latest first. -/
def readAfterStores (s : State) : List (Word × Byte) → Word → Byte
  | [], a => memRead s a
  | (ea, v) :: rest, a => if sameStorage s a ea then v else readAfterStores s rest a

/-- The stores made between two states, the latest first, and nothing else: every address reads as the stores leave
it, every storage byte none of them reaches is unchanged (also one no address reaches now), and CHR is unchanged. -/
def StoresExactly (stores : List (Word × Byte)) (s t : State) : Prop :=
  (∀ a, memRead t a = readAfterStores s stores a) ∧
  (∀ place, (∀ w ∈ stores, place ≠ locate s w.1) → readStorage t place = readStorage s place) ∧
  t.cart.map Cartridge.chr = s.cart.map Cartridge.chr

/-- The state whose PC is at the first operand byte. -/
def atOperands (s : State) : State := s.setPc (s.pc + 1)

/-- The effective address of an instruction fetched in state `s` (40_addressing_modes.md R132 to R143). -/
def targetAddress (s : State) (m : Operand) : Word := effectiveAddress (atOperands s) m

/-- The source operand `M` of an instruction fetched in state `s` (40_addressing_modes.md R146). -/
def sourceOperand (s : State) : Operand → Byte
  | .imp => s.a
  | .imm b1 => b1
  | m => memRead s (targetAddress s m)

/-- The address of the following instruction (10_state.md R31). -/
def followingPc (s : State) (m : Operand) : Word := s.pc + 1 + BitVec.ofNat 16 m.mode.operandBytes

/-- The latches as the resolver of the instruction's mode leaves them: IMP copies A, REL takes the signed offset, every
other mode the effective address (40_addressing_modes.md R132 to R143). -/
def LatchesShow (s : State) (m : Operand) (t : State) : Prop :=
  match m with
  | .imp => t.ea = s.ea ∧ t.rel = s.rel ∧ t.fetched = s.a
  | .rel b1 => t.ea = s.ea ∧ t.rel.toInt = b1.toInt ∧ t.fetched = s.fetched
  | m => t.ea = targetAddress s m ∧ t.rel = s.rel ∧ t.fetched = s.fetched

/-- The effects of the dispatch around an operation: the latches, the cost left in CYC (R131), with `extra` the cycles
a taken branch adds, and everything no instruction touches. -/
def DispatchEffects (s : State) (o : Op) (m : Operand) (extra : Nat) (t : State) : Prop :=
  LatchesShow s m t ∧
  t.cyc = baseCycles s.params o m.mode
    + (if requestsPageCycle o && crossesPage (atOperands s) m then 1 else 0) + extra ∧
  t.ticks = s.ticks ∧ t.params = s.params ∧ t.schedule = s.schedule ∧ geometry t = geometry s

/-- The frame of an instruction that goes on to the following one: its dispatch effects, the registers and flags it
may change, and exactly the bytes it stores. U is 1 afterwards. -/
def RunsOn (s : State) (o : Op) (m : Operand) (regs : List Reg) (flags : List Flag)
    (stores : List (Word × Byte)) (t : State) : Prop :=
  DispatchEffects s o m 0 t ∧ t.pc = followingPc s m ∧
  KeepsRegisters regs s t ∧ KeepsFlags flags s t ∧ t.flag .u = true ∧ StoresExactly stores s t

/-- A shift or rotate with its result and the bit moved into C: the accumulator form writes A, every other form the one
byte at the effective address (40_addressing_modes.md R147, 44_shift_rotate.md R210). -/
def Shifted (s : State) (o : Op) (m : Operand) (r : Byte) (carry : Bool) (t : State) : Prop :=
  t.flag .c = carry ∧ ShowsZN r t ∧
  (m = .imp → t.a = r ∧ RunsOn s o m [.a] [.c, .z, .n] [] t) ∧
  (m ≠ .imp → RunsOn s o m [] [.c, .z, .n] [(targetAddress s m, r)] t)

/-- An array in canonical form with every index below its size. -/
def Memory.sound (m : Memory) (size : Nat) : Bool := m.wf && m.within size

/-- A cartridge the model has a policy for, with its arrays sound (20_memory.md R73, 70_reset_and_hazards.md R335). -/
def Cartridge.sound (c : Cartridge) : Bool :=
  c.supported && c.prg.sound (prgSize c.prgBanks) && c.chr.sound (chrSize c.chrBanks)

/-- The storage of the machine: every array canonical and within its size; no backing array under `zero_drop`
(10_state.md R36 to R39). -/
def storageSound (s : State) : Bool :=
  s.ram.sound Config.ramSize && s.ppureg.sound Config.ppuregSize && s.back.sound 65536
    && s.cart.all Cartridge.sound
    && (s.params.unclaimed == .flatBacking || s.back == [])

/-- With the default cycle counts CYC never exceeds 8 (10_state.md R33). -/
def cyclesSound (s : State) : Bool :=
  s.params.baseCycles != [] || s.params.undefEntry != [] || decide (s.cyc ≤ 8)

/-- The invariant every step keeps. -/
abbrev State.Inv (s : State) : Prop := storageSound s = true ∧ cyclesSound s = true

/-- One instruction run `k` times over. -/
def execTimes (i : Instr) : Nat → State → Result
  | 0, s => .next s
  | k + 1, s =>
    match exec i s with
    | .next t => execTimes i k t
    | .fault r => .fault r
    | .refused r => .refused r

/-- `k` CPU ticks. -/
def tickTimes : Nat → State → Result
  | 0, s => .next s
  | k + 1, s =>
    match tick s with
    | .next t => tickTimes k t
    | .fault r => .fault r
    | .refused r => .refused r

/-- The opcode bytes of an operation in its addressing modes, in the order 40_addressing_modes.md R149 lists them. -/
def EncodedAs (o : Op) (bytes : List Byte) : Prop := o.modes.map (opcodeOf o) = bytes.map some

/-- The encoding and the default base count of an instruction with no operand (30_encoding.md R108). -/
def EncodedAlone (i : Instr) (b : Byte) (cycles : Nat) : Prop := encode i = [b] ∧ defaultBaseCycles b = cycles

/-- A number outside the signed range of a byte (43_arithmetic.md R190). -/
def outOfSignedRange (n : Int) : Bool := decide (n < -128) || decide (127 < n)

/-- The stack location of a stack pointer value, an address in page 1 (10_state.md R23). -/
def stackSlot (sp : Byte) : Word := BitVec.ofNat 16 (0x100 + sp.toNat)

/-- The eight branches with the opcode byte, the flag and the value they branch on (45_branch.md R221 to R228). -/
def branchConditions : List ((Byte → Instr) × Op × Byte × Flag × Bool) :=
  [(.bcc, .bcc, 0x90, .c, false), (.bcs, .bcs, 0xB0, .c, true), (.beq, .beq, 0xF0, .z, true),
    (.bne, .bne, 0xD0, .z, false), (.bmi, .bmi, 0x30, .n, true), (.bpl, .bpl, 0x10, .n, false),
    (.bvc, .bvc, 0x50, .v, false), (.bvs, .bvs, 0x70, .v, true)]

/-- The seven flag instructions with the opcode byte, the flag and the value they give it (47_stack_flags.md R249 to
R255). -/
def flagInstructions : List (Instr × Op × Byte × Flag × Bool) :=
  [(.clc, .clc, 0x18, .c, false), (.sec, .sec, 0x38, .c, true), (.cli, .cli, 0x58, .i, false),
    (.sei, .sei, 0x78, .i, true), (.cld, .cld, 0xD8, .d, false), (.sed, .sed, 0xF8, .d, true),
    (.clv, .clv, 0xB8, .v, false)]

/-- The instructions marked ZN in 10_state.md R27. -/
def znWriters : List Op :=
  [.lda, .ldx, .ldy, .lax, .tax, .tay, .txa, .tya, .tsx, .pla, .and, .ora, .eor, .inc, .dec, .inx, .iny, .dex, .dey,
    .asl, .lsr, .rol, .ror, .slo]

/-- Which instructions write a flag (10_state.md R27). U is left out: every dispatch sets it (R28). -/
def flagWriters : Flag → List Op
  | .c => [.adc, .sbc, .isb, .cmp, .cpx, .cpy, .dcp, .asl, .slo, .rol, .lsr, .ror, .clc, .sec, .plp, .rti]
  | .z | .n => znWriters ++ [.adc, .sbc, .isb, .cmp, .cpx, .cpy, .dcp, .bit, .plp, .rti]
  | .i => [.sei, .cli, .brk, .plp, .rti]
  | .d => [.sed, .cld, .plp, .rti]
  | .b => [.php, .brk, .plp, .rti]
  | .v => [.adc, .sbc, .isb, .bit, .clv, .plp, .rti]
  | .u => []

/-- Which instructions write a register (10_state.md R20 to R23; 49_illegal.md R279 for ISB). -/
def registerWriters : Reg → List Op
  | .a => [.lda, .and, .ora, .eor, .adc, .sbc, .pla, .txa, .tya, .lax, .slo, .isb, .asl, .lsr, .rol, .ror]
  | .x => [.ldx, .tax, .tsx, .inx, .dex, .lax]
  | .y => [.ldy, .tay, .iny, .dey]
  | .sp => [.pha, .pla, .php, .plp, .jsr, .rts, .brk, .rti, .txs]

/-- The stores of a byte list at consecutive addresses, the latest first (70_reset_and_hazards.md R336). -/
def programStores : Word → List Byte → List (Word × Byte)
  | _, [] => []
  | base, b :: rest => programStores (base + 1) rest ++ [(base, b)]

end Sys2Proof.Machine
end

