-- ==== Sys2Proof/Certificates/Slice0/Obligations.lean ====
section
/-! DEFINITION. The statements for the provers, from the numbered rules of the spec. -/

open Sys2Proof Sys2Proof.Machine

/-- O1. For every well-formed instruction with every operand value, and any bytes after it, the decoder reads from its
encoding that instruction and leaves exactly those bytes. (Rests on 30_encoding.md section 1 (rules R100, R101);
30_encoding.md section 3 (rule R108); 40_addressing_modes.md section 3 (rule R149).) -/
def Obligations.DecodeInvertsEncode : Prop :=
  ∀ (i : Instr) (rest : List Byte), i.wf = true → decode (encode i ++ rest) = .ok (i, rest)

/-- O2. For any three bytes of the instruction stream, the encoding of the instruction read there is the first bytes
of the three, as many as the opcode byte asks for; so each instruction has one encoding. (Rests on 30_encoding.md
section 1 (rules R100, R101); 30_encoding.md section 3 (rule R108).) -/
def Obligations.EncodeReturnsTheBytesRead : Prop :=
  ∀ b0 b1 b2 : Byte, encode (decodeBytes b0 b1 b2) = [b0, b1, b2].take (lengthAt b0)

/-- O3. For any three bytes the decoder reads an instruction whose operand form is in a mode rule R149 gives its
operation, or one of the 74 undefined opcode bytes of rule R112. (Rests on 30_encoding.md section 3 (rules R108,
R112); 40_addressing_modes.md section 3 (rule R149).) -/
def Obligations.DecodedInstructionsAreWellFormed : Prop :=
  ∀ b0 b1 b2 : Byte, (decodeBytes b0 b1 b2).wf = true

/-- O4. A word of each of the twelve addressing modes and of each instruction family (loads and stores, transfers,
logic, arithmetic, shifts, branches, jumps, stack, flags, system, undocumented, undefined), copied from the test
vectors the cites name, decodes to the instruction the spec names there; two of one byte have a byte appended that is
not theirs. (Rests on 30_encoding.md section 3 (rule R108); 95_test_vectors.md part 2 (V3, V4, V6, V7, V9, V11, V14,
V16, V23, V44, V51, V59, V95, V114, V127, V136, V141, V149, V158, V170).) -/
def Obligations.SpecWordsDecode : Prop :=
  decode [0xA5, 0x10] = .ok (.lda (.zp0 0x10), []) ∧
  decode [0xB5, 0x10] = .ok (.lda (.zpx 0x10), []) ∧
  decode [0xB6, 0x80] = .ok (.ldx (.zpy 0x80), []) ∧
  decode [0xAD, 0x34, 0x02] = .ok (.lda (.abs 0x34 0x02), []) ∧
  decode [0xB9, 0xF0, 0x02] = .ok (.lda (.aby 0xF0 0x02), []) ∧
  decode [0xA1, 0x20] = .ok (.lda (.izx 0x20), []) ∧
  decode [0xAA] = .ok (.tax, []) ∧
  decode [0x69, 0x01] = .ok (.adc (.imm 0x01), []) ∧
  decode [0x18] = .ok (.clc, []) ∧
  decode [0xBD, 0xFF, 0x02] = .ok (.lda (.abx 0xFF 0x02), []) ∧
  decode [0x6C, 0xFF, 0x02] = .ok (.jmp (.ind 0xFF 0x02), []) ∧
  decode [0x29, 0x3C] = .ok (.and (.imm 0x3C), []) ∧
  decode [0x91, 0x20] = .ok (.sta (.izy 0x20), []) ∧
  decode [0xD0, 0xFA] = .ok (.bne 0xFA, []) ∧
  decode [0x20, 0x00, 0x90] = .ok (.jsr 0x00 0x90, []) ∧
  decode [0x0A, 0xEA] = .ok (.asl .imp, [0xEA]) ∧
  decode [0x08] = .ok (.php, []) ∧
  decode [0x00, 0xEA] = .ok (.brk, [0xEA]) ∧
  decode [0xBF, 0xF0, 0x02] = .ok (.lax (.aby 0xF0 0x02), []) ∧
  decode [0xEB, 0x01] = .ok (.undefined 0xEB, [0x01])

/-- O5. With an acceptable cartridge or none: when the schedule is empty, or its next entry is an instruction, and the
three bytes at PC decode to i, the step is exec of i; when the next entry is irq, nmi, reset, tick or sysclock_tick,
the step is that event. The schedule is the model's choice (log entry 2). (Rests on 40_addressing_modes.md section 1
(rule R130); 00_scope.md section 5 (rules R8, R9); 70_reset_and_hazards.md section 2 (rule R327).) -/
def Obligations.StepRunsTheNextEvent : Prop :=
  ∀ (s : State) (i : Instr) (rest : List Event) (bytes : List Byte), cartridgeOk s = true →
    (s.schedule = [] → decode [memRead s s.pc, memRead s (s.pc + 1), memRead s (s.pc + 2)] = .ok (i, bytes) →
      step s = exec i s) ∧
    (s.schedule = .instruction :: rest →
      decode [memRead s s.pc, memRead s (s.pc + 1), memRead s (s.pc + 2)] = .ok (i, bytes) →
      step s = exec i (s.setSchedule rest)) ∧
    (s.schedule = .irq :: rest → step s = .next (irq (s.setSchedule rest))) ∧
    (s.schedule = .nmi :: rest → step s = .next (nmi (s.setSchedule rest))) ∧
    (s.schedule = .reset :: rest → step s = .next (resetEvent (s.setSchedule rest))) ∧
    (s.schedule = .tick :: rest → step s = tick (s.setSchedule rest)) ∧
    (s.schedule = .sysclockTick :: rest → step s = sysclockTick (s.setSchedule rest))

/-- O6. LDA, LDX, LDY and LAX complete in every operand form and every state: the destination register (both A and X
for LAX) holds the operand byte, Z says it is zero, N is its bit 7, the cost is the base count plus one for a page
crossing, PC is at the following instruction, and every other register, flag and byte of memory is unchanged. Their
opcode bytes are those of the rules. (States R161; R162; R163; R276.) -/
def Obligations.LoadsMoveTheOperand : Prop :=
  EncodedAs .lda [0xA9, 0xA5, 0xB5, 0xAD, 0xBD, 0xB9, 0xA1, 0xB1] ∧
  EncodedAs .ldx [0xA2, 0xA6, 0xB6, 0xAE, 0xBE] ∧
  EncodedAs .ldy [0xA0, 0xA4, 0xB4, 0xAC, 0xBC] ∧
  EncodedAs .lax [0xA7, 0xB7, 0xAF, 0xBF, 0xA3, 0xB3] ∧
  [0xA7, 0xB7, 0xAF, 0xBF, 0xA3, 0xB3].map defaultBaseCycles = [3, 4, 4, 4, 6, 5] ∧
  ∀ (m : Operand) (s : State),
    (∃ t, exec (.lda m) s = .next t ∧ t.a = sourceOperand s m ∧ ShowsZN (sourceOperand s m) t ∧
      RunsOn s .lda m [.a] [.z, .n] [] t) ∧
    (∃ t, exec (.ldx m) s = .next t ∧ t.x = sourceOperand s m ∧ ShowsZN (sourceOperand s m) t ∧
      RunsOn s .ldx m [.x] [.z, .n] [] t) ∧
    (∃ t, exec (.ldy m) s = .next t ∧ t.y = sourceOperand s m ∧ ShowsZN (sourceOperand s m) t ∧
      RunsOn s .ldy m [.y] [.z, .n] [] t) ∧
    (∃ t, exec (.lax m) s = .next t ∧ t.a = sourceOperand s m ∧ t.x = sourceOperand s m ∧
      ShowsZN (sourceOperand s m) t ∧ RunsOn s .lax m [.a, .x] [.z, .n] [] t)

/-- O7. STA, STX, STY and SAX complete in every operand form and every state: the byte stored at the effective address
is A, X, Y, or A AND X, a store to an unclaimed address is dropped, no register and no flag changes but U, the cost is
the base count, and every byte of memory outside the one stored reads as before. Their opcode bytes are those of the
rules. (States R164; R165; R166; R277.) -/
def Obligations.StoresWriteOneByte : Prop :=
  EncodedAs .sta [0x85, 0x95, 0x8D, 0x9D, 0x99, 0x81, 0x91] ∧
  [0x9D, 0x99, 0x91].map defaultBaseCycles = [5, 5, 6] ∧
  EncodedAs .stx [0x86, 0x96, 0x8E] ∧
  EncodedAs .sty [0x84, 0x94, 0x8C] ∧
  EncodedAs .sax [0x87, 0x97, 0x8F, 0x83] ∧ [0x87, 0x97, 0x8F, 0x83].map defaultBaseCycles = [3, 4, 4, 6] ∧
  ∀ (m : Operand) (s : State),
    (∃ t, exec (.sta m) s = .next t ∧ RunsOn s .sta m [] [] [(targetAddress s m, s.a)] t) ∧
    (∃ t, exec (.stx m) s = .next t ∧ RunsOn s .stx m [] [] [(targetAddress s m, s.x)] t) ∧
    (∃ t, exec (.sty m) s = .next t ∧ RunsOn s .sty m [] [] [(targetAddress s m, s.y)] t) ∧
    (∃ t, exec (.sax m) s = .next t ∧ RunsOn s .sax m [] [] [(targetAddress s m, s.a &&& s.x)] t)

/-- O8. TAX, TAY, TXA, TYA and TSX complete in every state: the destination holds the source register, Z and N are
those of the byte moved, and every other register, flag and byte of memory is unchanged. Each has the opcode byte its
rule gives. (States R167; R168; R169; R170; R171.) -/
def Obligations.TransfersMoveARegister : Prop :=
  EncodedAlone .tax 0xAA 2 ∧ EncodedAlone .tay 0xA8 2 ∧ EncodedAlone .txa 0x8A 2 ∧ EncodedAlone .tya 0x98 2 ∧
  EncodedAlone .tsx 0xBA 2 ∧
  ∀ s : State,
    (∃ t, exec .tax s = .next t ∧ t.x = s.a ∧ ShowsZN s.a t ∧ RunsOn s .tax .imp [.x] [.z, .n] [] t) ∧
    (∃ t, exec .tay s = .next t ∧ t.y = s.a ∧ ShowsZN s.a t ∧ RunsOn s .tay .imp [.y] [.z, .n] [] t) ∧
    (∃ t, exec .txa s = .next t ∧ t.a = s.x ∧ ShowsZN s.x t ∧ RunsOn s .txa .imp [.a] [.z, .n] [] t) ∧
    (∃ t, exec .tya s = .next t ∧ t.a = s.y ∧ ShowsZN s.y t ∧ RunsOn s .tya .imp [.a] [.z, .n] [] t) ∧
    (∃ t, exec .tsx s = .next t ∧ t.x = s.sp ∧ ShowsZN s.sp t ∧ RunsOn s .tsx .imp [.x] [.z, .n] [] t)

/-- O9. TXS completes in every state: SP holds X, whatever the value, no flag changes but U, and every other register
and byte of memory is unchanged. (States R172.) -/
def Obligations.TxsMovesWithoutFlags : Prop :=
  EncodedAlone .txs 0x9A 2 ∧
  ∀ s : State, ∃ t, exec .txs s = .next t ∧ t.sp = s.x ∧ RunsOn s .txs .imp [.sp] [] [] t

/-- O10. AND, ORA and EOR complete in every operand form and every state: each bit of A is the and, or, exclusive or
of the old bit and the operand bit, Z and N are those of the new A, the cost is the base count plus one for a page
crossing, and nothing else changes. Their opcode bytes are those of the rules. (States R180; R181; R182.) -/
def Obligations.LogicCombinesWithTheAccumulator : Prop :=
  EncodedAs .and [0x29, 0x25, 0x35, 0x2D, 0x3D, 0x39, 0x21, 0x31] ∧
  EncodedAs .ora [0x09, 0x05, 0x15, 0x0D, 0x1D, 0x19, 0x01, 0x11] ∧
  EncodedAs .eor [0x49, 0x45, 0x55, 0x4D, 0x5D, 0x59, 0x41, 0x51] ∧
  ∀ (m : Operand) (s : State),
    (∃ t, exec (.and m) s = .next t ∧
      (∀ k, t.a.getLsbD k = (s.a.getLsbD k && (sourceOperand s m).getLsbD k)) ∧ ShowsZN t.a t ∧
      RunsOn s .and m [.a] [.z, .n] [] t) ∧
    (∃ t, exec (.ora m) s = .next t ∧
      (∀ k, t.a.getLsbD k = (s.a.getLsbD k || (sourceOperand s m).getLsbD k)) ∧ ShowsZN t.a t ∧
      RunsOn s .ora m [.a] [.z, .n] [] t) ∧
    (∃ t, exec (.eor m) s = .next t ∧
      (∀ k, t.a.getLsbD k = (s.a.getLsbD k ^^ (sourceOperand s m).getLsbD k)) ∧ ShowsZN t.a t ∧
      RunsOn s .eor m [.a] [.z, .n] [] t)

/-- O11. BIT completes in every operand form and every state: Z says that A AND the operand is zero, N and V are bits
7 and 6 of the operand, and A, every other register, flag and byte of memory is unchanged. (States R183.) -/
def Obligations.BitTestsTheOperand : Prop :=
  EncodedAs .bit [0x24, 0x2C] ∧
  ∀ (m : Operand) (s : State),
    ∃ t, exec (.bit m) s = .next t ∧
      t.flag .z = decide ((s.a &&& sourceOperand s m).toNat = 0) ∧
      t.flag .n = decide (0x80 ≤ (sourceOperand s m).toNat) ∧
      t.flag .v = decide (0x40 ≤ (sourceOperand s m).toNat % 0x80) ∧
      RunsOn s .bit m [] [.z, .n, .v] [] t

/-- O12. ADC completes in every operand form and every state: A is the sum of A, the operand and C modulo 256, C says
that the sum exceeds 0xFF, V says that the signed sum is outside -128 to 127, which is so exactly when A and the
operand have the same sign bit and the result another, Z and N are those of the result, the cost is the base count
plus one for a page crossing, and nothing else changes. (States R192.) -/
def Obligations.AdcAddsWithCarry : Prop :=
  EncodedAs .adc [0x69, 0x65, 0x75, 0x6D, 0x7D, 0x79, 0x61, 0x71] ∧
  ∀ (m : Operand) (s : State),
    ∃ t, exec (.adc m) s = .next t ∧
      t.a.toNat = (s.a.toNat + (sourceOperand s m).toNat + carryNat (s.flag .c)) % 256 ∧
      t.flag .c = decide (0xFF < s.a.toNat + (sourceOperand s m).toNat + carryNat (s.flag .c)) ∧
      t.flag .v = outOfSignedRange (s.a.toInt + (sourceOperand s m).toInt + carryNat (s.flag .c)) ∧
      (t.flag .v = true ↔
        s.a.getLsbD 7 = (sourceOperand s m).getLsbD 7 ∧ t.a.getLsbD 7 ≠ s.a.getLsbD 7) ∧
      ShowsZN t.a t ∧ RunsOn s .adc m [.a] [.c, .z, .v, .n] [] t

/-- O13. SBC completes in every operand form and every state: A is A - m - (1 - C) modulo 256, C says that no borrow
occurred, V says that the signed difference is outside -128 to 127, Z and N are those of the result, the cost is the
base count plus one for a page crossing, and nothing else changes; and its assignments for m are those of ADC for the
one's complement of m. (States R193.) -/
def Obligations.SbcSubtractsWithBorrow : Prop :=
  EncodedAs .sbc [0xE9, 0xE5, 0xF5, 0xED, 0xFD, 0xF9, 0xE1, 0xF1] ∧
  (∀ (s : State) (m : Byte), s.subtractWithCarry m = s.addWithCarry (m ^^^ 0xFF)) ∧
  ∀ (m : Operand) (s : State),
    ∃ t, exec (.sbc m) s = .next t ∧
      (t.a.toNat : Int) =
        ((s.a.toNat : Int) - (sourceOperand s m).toNat - (1 - carryNat (s.flag .c) : Nat)) % 256 ∧
      t.flag .c = decide ((sourceOperand s m).toNat + (1 - carryNat (s.flag .c)) ≤ s.a.toNat) ∧
      t.flag .v = outOfSignedRange (s.a.toInt - (sourceOperand s m).toInt - (1 - carryNat (s.flag .c) : Nat)) ∧
      ShowsZN t.a t ∧ RunsOn s .sbc m [.a] [.c, .z, .v, .n] [] t

/-- O14. For every operand form and state, running ADC, SBC or ISB with D set or cleared first gives the state the
instruction gives anyway, with D as it was made: no other bit depends on D. (Rests on 43_arithmetic.md section 1 (rule
R191).) -/
def Obligations.DecimalFlagDoesNotChangeArithmetic : Prop :=
  ∀ (m : Operand) (s t : State) (d : Bool),
    (exec (.adc m) s = .next t → exec (.adc m) (s.setFlag .d d) = .next (t.setFlag .d d)) ∧
    (exec (.sbc m) s = .next t → exec (.sbc m) (s.setFlag .d d) = .next (t.setFlag .d d)) ∧
    (exec (.isb m) s = .next t → exec (.isb m) (s.setFlag .d d) = .next (t.setFlag .d d))

/-- O15. CMP, CPX and CPY complete in every operand form and every state: C says that the register is at least the
operand as unsigned numbers, Z that they are equal, N is bit 7 of the difference modulo 256; no register, no other
flag and no byte of memory changes; only CMP pays the page-crossing cycle. (States R194; R195; R196; R197.) -/
def Obligations.ComparesWriteOnlyFlags : Prop :=
  EncodedAs .cmp [0xC9, 0xC5, 0xD5, 0xCD, 0xDD, 0xD9, 0xC1, 0xD1] ∧
  EncodedAs .cpx [0xE0, 0xE4, 0xEC] ∧
  EncodedAs .cpy [0xC0, 0xC4, 0xCC] ∧
  ∀ (m : Operand) (s : State),
    (∃ t, exec (.cmp m) s = .next t ∧ t.flag .c = decide ((sourceOperand s m).toNat ≤ s.a.toNat) ∧
      t.flag .z = decide (s.a = sourceOperand s m) ∧
      t.flag .n = decide (0x80 ≤ (s.a.toNat + 256 - (sourceOperand s m).toNat) % 256) ∧
      RunsOn s .cmp m [] [.c, .z, .n] [] t) ∧
    (∃ t, exec (.cpx m) s = .next t ∧ t.flag .c = decide ((sourceOperand s m).toNat ≤ s.x.toNat) ∧
      t.flag .z = decide (s.x = sourceOperand s m) ∧
      t.flag .n = decide (0x80 ≤ (s.x.toNat + 256 - (sourceOperand s m).toNat) % 256) ∧
      RunsOn s .cpx m [] [.c, .z, .n] [] t) ∧
    (∃ t, exec (.cpy m) s = .next t ∧ t.flag .c = decide ((sourceOperand s m).toNat ≤ s.y.toNat) ∧
      t.flag .z = decide (s.y = sourceOperand s m) ∧
      t.flag .n = decide (0x80 ≤ (s.y.toNat + 256 - (sourceOperand s m).toNat) % 256) ∧
      RunsOn s .cpy m [] [.c, .z, .n] [] t)

/-- O16. INC and DEC complete in every operand form and every state: the byte stored at the effective address is the
operand plus or minus one modulo 256, Z and N are those of that byte (also where an unclaimed address drops it), C and
V are untouched, no register changes, the cost is the base count, and every other byte of memory reads as before.
(States R198; R199.) -/
def Obligations.MemoryIncrementsAndDecrements : Prop :=
  EncodedAs .inc [0xE6, 0xF6, 0xEE, 0xFE] ∧ EncodedAs .dec [0xC6, 0xD6, 0xCE, 0xDE] ∧ defaultBaseCycles 0xFE = 7 ∧
  ∀ (m : Operand) (s : State),
    (∃ t v, exec (.inc m) s = .next t ∧ v = BitVec.ofNat 8 ((sourceOperand s m).toNat + 1) ∧ ShowsZN v t ∧
      RunsOn s .inc m [] [.z, .n] [(targetAddress s m, v)] t) ∧
    (∃ t v, exec (.dec m) s = .next t ∧ v = BitVec.ofNat 8 ((sourceOperand s m).toNat + 255) ∧ ShowsZN v t ∧
      RunsOn s .dec m [] [.z, .n] [(targetAddress s m, v)] t)

/-- O17. INX, INY, DEX and DEY complete in every state: the register is its old value plus or minus one modulo 256, Z
and N are those of the new value, and every other register, flag and byte of memory is unchanged. (States R200; R201;
R202; R203.) -/
def Obligations.IndexRegistersStepByOne : Prop :=
  EncodedAlone .inx 0xE8 2 ∧ EncodedAlone .iny 0xC8 2 ∧ EncodedAlone .dex 0xCA 2 ∧ EncodedAlone .dey 0x88 2 ∧
  ∀ s : State,
    (∃ t, exec .inx s = .next t ∧ t.x.toNat = (s.x.toNat + 1) % 256 ∧ ShowsZN t.x t ∧
      RunsOn s .inx .imp [.x] [.z, .n] [] t) ∧
    (∃ t, exec .iny s = .next t ∧ t.y.toNat = (s.y.toNat + 1) % 256 ∧ ShowsZN t.y t ∧
      RunsOn s .iny .imp [.y] [.z, .n] [] t) ∧
    (∃ t, exec .dex s = .next t ∧ t.x.toNat = (s.x.toNat + 255) % 256 ∧ ShowsZN t.x t ∧
      RunsOn s .dex .imp [.x] [.z, .n] [] t) ∧
    (∃ t, exec .dey s = .next t ∧ t.y.toNat = (s.y.toNat + 255) % 256 ∧ ShowsZN t.y t ∧
      RunsOn s .dey .imp [.y] [.z, .n] [] t)

/-- O18. ASL, LSR, ROL and ROR complete in every operand form and every state: the result is twice or half the operand
(the old carry entering at bit 0 for ROL and at bit 7 for ROR), C is the bit moved out, Z and N are those of the
result; the accumulator form writes A and no memory, every other form writes the one byte at the effective address and
no register; no other flag changes, and the cost is the base count. (States R211; R212; R213; R214.) -/
def Obligations.ShiftsMoveOneBit : Prop :=
  EncodedAs .asl [0x0A, 0x06, 0x16, 0x0E, 0x1E] ∧ EncodedAs .lsr [0x4A, 0x46, 0x56, 0x4E, 0x5E] ∧
  EncodedAs .rol [0x2A, 0x26, 0x36, 0x2E, 0x3E] ∧ EncodedAs .ror [0x6A, 0x66, 0x76, 0x6E, 0x7E] ∧
  ∀ (m : Operand) (s : State),
    (∃ t, exec (.asl m) s = .next t ∧
      Shifted s .asl m (BitVec.ofNat 8 (2 * (sourceOperand s m).toNat)) (decide (0x80 ≤ (sourceOperand s m).toNat)) t) ∧
    (∃ t, exec (.lsr m) s = .next t ∧
      Shifted s .lsr m (BitVec.ofNat 8 ((sourceOperand s m).toNat / 2)) (decide ((sourceOperand s m).toNat % 2 = 1)) t) ∧
    (∃ t, exec (.rol m) s = .next t ∧
      Shifted s .rol m (BitVec.ofNat 8 (2 * (sourceOperand s m).toNat + carryNat (s.flag .c))) (decide (0x80 ≤ (sourceOperand s m).toNat)) t) ∧
    (∃ t, exec (.ror m) s = .next t ∧
      Shifted s .ror m (BitVec.ofNat 8 ((sourceOperand s m).toNat / 2 + 0x80 * carryNat (s.flag .c))) (decide ((sourceOperand s m).toNat % 2 = 1)) t)

/-- O19. From every state nine ROL A in a row, and nine ROR A in a row, complete, and A and C are as they were: the
rotation is through nine bits, none is lost. (Rests on 44_shift_rotate.md (rule R213, corner cases).) -/
def Obligations.NineRotationsRestoreTheAccumulator : Prop :=
  ∀ s : State,
    (∃ t, execTimes (.rol .imp) 9 s = .next t ∧ t.a = s.a ∧ t.flag .c = s.flag .c ∧ t.pc = s.pc + 9) ∧
    (∃ t, execTimes (.ror .imp) 9 s = .next t ∧ t.a = s.a ∧ t.flag .c = s.flag .c ∧ t.pc = s.pc + 9)

/-- O20. For each branch of rules R221 to R228, every offset and every state the instruction completes: when its flag
holds the value of its rule, PC is the following address plus the signed offset modulo 65536 and the cost is base plus
1, or plus 2 when the target lies in another page than the following address; otherwise PC is the following address
and the cost is base. No register, no flag but U and no byte of memory changes. (States R220; R221; R222; R223; R224;
R225; R226; R227; R228.) -/
def Obligations.BranchesFollowTheirFlag : Prop :=
  ∀ e ∈ branchConditions, ∀ (off : Byte) (s : State), encode (e.1 off) = [e.2.2.1, off] ∧
    defaultBaseCycles e.2.2.1 = 2 ∧
    ∃ t target, exec (e.1 off) s = .next t ∧ target = BitVec.ofInt 16 ((s.pc + 2).toNat + off.toInt) ∧
      KeepsRegisters [] s t ∧ KeepsFlags [] s t ∧ t.flag .u = true ∧ StoresExactly [] s t ∧
      (s.flag e.2.2.2.1 = e.2.2.2.2 → t.pc = target ∧
        DispatchEffects s e.2.1 (.rel off) (if target.toNat / 256 = (s.pc + 2).toNat / 256 then 1 else 2) t) ∧
      (s.flag e.2.2.2.1 ≠ e.2.2.2.2 → t.pc = s.pc + 2 ∧ DispatchEffects s e.2.1 (.rel off) 0 t)

/-- O21. JMP completes in both forms and every state: the absolute form loads PC with its operand; the indirect form
loads the low byte from the pointer and the high byte from the next address in the same page (the next address, but
the start of the page when the low byte of the pointer is 0xFF). No register, no flag but U and no byte of memory
changes. (States R235; R236.) -/
def Obligations.JumpsLoadTheirTarget : Prop :=
  EncodedAs .jmp [0x4C, 0x6C] ∧ defaultBaseCycles 0x4C = 3 ∧ defaultBaseCycles 0x6C = 5 ∧
  ∀ (lo hi : Byte) (s : State),
    (∃ t, exec (.jmp (.abs lo hi)) s = .next t ∧ t.pc.toNat = 256 * hi.toNat + lo.toNat ∧
      DispatchEffects s .jmp (.abs lo hi) 0 t ∧ KeepsRegisters [] s t ∧ KeepsFlags [] s t ∧ t.flag .u = true ∧
      StoresExactly [] s t) ∧
    (∃ t, exec (.jmp (.ind lo hi)) s = .next t ∧
      t.pc.toNat = 256 * (memRead s (BitVec.ofNat 16 (256 * hi.toNat + (lo.toNat + 1) % 256))).toNat
        + (memRead s (BitVec.ofNat 16 (256 * hi.toNat + lo.toNat))).toNat ∧
      DispatchEffects s .jmp (.ind lo hi) 0 t ∧ KeepsRegisters [] s t ∧ KeepsFlags [] s t ∧ t.flag .u = true ∧
      StoresExactly [] s t)

/-- O22. JSR completes for every target and state: PC is the target, the two bytes stored are the high and the low
byte of the address of the JSR plus 2, at the stack locations of SP and SP - 1 modulo 256, SP decreases by 2, no flag
changes but U, and every other register and byte of memory is unchanged. (States R237.) -/
def Obligations.JsrPushesTheAddressOfItsLastByte : Prop :=
  ∀ (lo hi : Byte) (s : State), encode (.jsr lo hi) = [0x20, lo, hi] ∧ defaultBaseCycles 0x20 = 6 ∧
    ∃ t, exec (.jsr lo hi) s = .next t ∧ t.pc.toNat = 256 * hi.toNat + lo.toNat ∧ t.sp = s.sp - 2 ∧
      DispatchEffects s .jsr (.abs lo hi) 0 t ∧ KeepsRegisters [.sp] s t ∧ KeepsFlags [] s t ∧ t.flag .u = true ∧
      StoresExactly [(stackSlot (s.sp - 1), loByte (s.pc + 2)), (stackSlot s.sp, hiByte (s.pc + 2))] s t

/-- O23. RTS completes in every state: PC is the 16-bit value of the two bytes at the stack locations of SP + 1 (low)
and SP + 2 (high), plus 1 modulo 65536, SP increases by 2 modulo 256, no flag changes but U, and every other register
and every byte of memory is unchanged. (States R238.) -/
def Obligations.RtsReturnsPastThePoppedAddress : Prop :=
  EncodedAlone .rts 0x60 6 ∧
  ∀ s : State, ∃ t, exec .rts s = .next t ∧
    t.pc.toNat = (256 * (memRead s (stackSlot (s.sp + 2))).toNat + (memRead s (stackSlot (s.sp + 1))).toNat + 1) % 65536 ∧
    t.sp = s.sp + 2 ∧ DispatchEffects s .rts .imp 0 t ∧ KeepsRegisters [.sp] s t ∧ KeepsFlags [] s t ∧
    t.flag .u = true ∧ StoresExactly [] s t

/-- O24. From every state and for every target, after a JSR an RTS completes with PC at the instruction after the JSR,
SP as before the JSR, A, X, Y and every flag but U unchanged, also where the two pushes wrap around the stack page.
(Rests on 46_jump_subroutine.md (rules R237, R238); 10_state.md section 1 (rules R23 to R25).) -/
def Obligations.RtsReturnsFromJsr : Prop :=
  ∀ (lo hi : Byte) (s : State), ∃ t u, exec (.jsr lo hi) s = .next t ∧ exec .rts t = .next u ∧
    u.pc = s.pc + 3 ∧ KeepsRegisters [] s u ∧ KeepsFlags [] s u

/-- O25. PHA and PLA complete in every state: PHA stores A at the stack location of SP and decrements SP, writing no
flag but U; PLA increments SP modulo 256 and loads A from that location, Z and N being those of the byte; nothing else
changes. (States R245; R246.) -/
def Obligations.PhaAndPlaMoveAByte : Prop :=
  EncodedAlone .pha 0x48 3 ∧ EncodedAlone .pla 0x68 4 ∧
  ∀ s : State,
    (∃ t, exec .pha s = .next t ∧ t.sp = s.sp - 1 ∧ RunsOn s .pha .imp [.sp] [] [(stackSlot s.sp, s.a)] t) ∧
    (∃ t, exec .pla s = .next t ∧ t.sp = s.sp + 1 ∧ t.a = memRead s (stackSlot (s.sp + 1)) ∧ ShowsZN t.a t ∧
      RunsOn s .pla .imp [.sp, .a] [.z, .n] [] t)

/-- O26. PHP completes in every state: the byte stored at the stack location of SP is P with bits 4 and 5 set, SP
decreases by 1, B and U of the live register are 0 afterwards, the other six flags, every other register and every
other byte of memory are unchanged. (States R247.) -/
def Obligations.PhpPushesTheStatus : Prop :=
  EncodedAlone .php 0x08 3 ∧
  ∀ s : State, ∃ t, exec .php s = .next t ∧ t.sp = s.sp - 1 ∧ t.flag .b = false ∧ t.flag .u = false ∧
    t.pc = s.pc + 1 ∧ DispatchEffects s .php .imp 0 t ∧ KeepsRegisters [.sp] s t ∧ KeepsFlags [.b] s t ∧
    StoresExactly [(stackSlot s.sp, s.p ||| 0x30)] s t

/-- O27. PLP completes in every state: P is the byte at the stack location of SP + 1 with bit 5 set, B included as
popped, SP increases by 1 modulo 256, and every other register and every byte of memory is unchanged. (States R248.)
-/
def Obligations.PlpRestoresTheStatus : Prop :=
  EncodedAlone .plp 0x28 4 ∧
  ∀ s : State, ∃ t, exec .plp s = .next t ∧ t.sp = s.sp + 1 ∧ t.flag .u = true ∧
    (∀ f, f ≠ .u → t.flag f = getFlag (memRead s (stackSlot (s.sp + 1))) f) ∧
    t.pc = s.pc + 1 ∧ DispatchEffects s .plp .imp 0 t ∧ KeepsRegisters [.sp] s t ∧ StoresExactly [] s t

/-- O28. Each of the seven flag instructions has the opcode byte of its rule and completes in every state: its flag
holds the value of its rule at once, so that an irq event raised right after CLI or SEI is gated by the new I and a D
of either value leaves the sum of an ADC alone; every other flag but U, every register and every byte of memory is
unchanged. (States R249; R250; R251; R252; R253; R254; R255.) -/
def Obligations.FlagInstructionsChangeOneFlag : Prop :=
  (∀ e ∈ flagInstructions, encode e.1 = [e.2.2.1] ∧ ∀ s : State,
    ∃ t, exec e.1 s = .next t ∧ t.flag e.2.2.2.1 = e.2.2.2.2 ∧ RunsOn s e.2.1 .imp [] [e.2.2.2.1] [] t) ∧
  (∀ s t, exec .cli s = .next t → irq t = enterInterrupt t 0xFFFE 7) ∧
  (∀ s t, exec .sei s = .next t → irq t = t) ∧
  (∀ (s : State) (m : Byte) (d : Bool), ((s.setFlag .d d).addWithCarry m).a = (s.addWithCarry m).a ∧
    ((s.setFlag .d d).subtractWithCarry m).a = (s.subtractWithCarry m).a)

/-- O29. BRK completes in every state, whatever I holds: the three bytes stored below SP are the high and low byte of
its address plus 2 and P with bits 4 and 5 set, SP decreases by 3 modulo 256, afterwards B is 0, U and I are 1 and the
other flags unchanged, PC is the little-endian word at 0xFFFE after the pushes, the cost is its base count, and A, X,
Y and every other byte of memory are unchanged. (States R265.) -/
def Obligations.BrkTrapsThroughTheIrqVector : Prop :=
  EncodedAlone .brk 0x00 7 ∧
  ∀ s : State, ∃ t, exec .brk s = .next t ∧ t.sp = s.sp - 3 ∧
    t.flag .b = false ∧ t.flag .u = true ∧ t.flag .i = true ∧
    t.pc.toNat = 256 * (memRead t 0xFFFF).toNat + (memRead t 0xFFFE).toNat ∧
    DispatchEffects s .brk .imp 0 t ∧ KeepsRegisters [.sp] s t ∧ KeepsFlags [.b, .i] s t ∧
    StoresExactly [(stackSlot (s.sp - 2), s.p ||| 0x30), (stackSlot (s.sp - 1), loByte (s.pc + 2)),
      (stackSlot s.sp, hiByte (s.pc + 2))] s t

/-- O30. RTI completes in every state: P is the byte at the stack location of SP + 1 with bit 5 set, PC the word at SP
+ 2 (low) and SP + 3 (high) with no increment, SP increases by 3 modulo 256, and every other register and every byte
of memory is unchanged. (States R268.) -/
def Obligations.RtiRestoresStatusAndPc : Prop :=
  EncodedAlone .rti 0x40 6 ∧
  ∀ s : State, ∃ t, exec .rti s = .next t ∧ t.sp = s.sp + 3 ∧ t.flag .u = true ∧
    (∀ f, f ≠ .u → t.flag f = getFlag (memRead s (stackSlot (s.sp + 1))) f) ∧
    t.pc.toNat = 256 * (memRead s (stackSlot (s.sp + 3))).toNat + (memRead s (stackSlot (s.sp + 2))).toNat ∧
    DispatchEffects s .rti .imp 0 t ∧ KeepsRegisters [.sp] s t ∧ StoresExactly [] s t

/-- O31. NOP completes in every state with no effect but that of its dispatch: PC advances by one, U is 1, and no
register, other flag or byte of memory changes; 0xEA is the only byte that decodes to it. (States R270.) -/
def Obligations.NopOnlyAdvances : Prop :=
  EncodedAlone .nop 0xEA 2 ∧ (∀ b0 b1 b2 : Byte, decodeBytes b0 b1 b2 = .nop ↔ b0 = 0xEA) ∧
  ∀ s : State, ∃ t, exec .nop s = .next t ∧ RunsOn s .nop .imp [] [] [] t

/-- O32. DCP completes in every operand form and every state: the byte stored at the effective address is the operand
minus one modulo 256; C, Z and N are those of comparing A with that byte; no register and no other flag changes, the
cost is the base count, and every other byte of memory reads as before. (States R278.) -/
def Obligations.DcpDecrementsThenCompares : Prop :=
  EncodedAs .dcp [0xC7, 0xD7, 0xCF, 0xDF, 0xDB, 0xC3, 0xD3] ∧
  [0xC7, 0xD7, 0xCF, 0xDF, 0xDB, 0xC3, 0xD3].map defaultBaseCycles = [5, 6, 6, 7, 7, 8, 8] ∧
  ∀ (m : Operand) (s : State),
    ∃ t v, exec (.dcp m) s = .next t ∧ v = BitVec.ofNat 8 ((sourceOperand s m).toNat + 255) ∧
      t.flag .c = decide (v.toNat ≤ s.a.toNat) ∧ t.flag .z = decide (s.a = v) ∧
      t.flag .n = decide (0x80 ≤ (s.a.toNat + 256 - v.toNat) % 256) ∧
      RunsOn s .dcp m [] [.c, .z, .n] [(targetAddress s m, v)] t

/-- O33. ISB completes in every operand form and every state: the byte stored at the effective address is the operand
plus one modulo 256; A, C, Z, V and N are those of SBC of that byte; no other register or flag changes, the cost is
the base count, and every other byte of memory reads as before. (States R279.) -/
def Obligations.IsbIncrementsThenSubtracts : Prop :=
  EncodedAs .isb [0xE7, 0xF7, 0xEF, 0xFF, 0xFB, 0xE3, 0xF3] ∧
  [0xE7, 0xF7, 0xEF, 0xFF, 0xFB, 0xE3, 0xF3].map defaultBaseCycles = [5, 6, 6, 7, 7, 8, 8] ∧
  ∀ (m : Operand) (s : State),
    ∃ t v, exec (.isb m) s = .next t ∧ v = BitVec.ofNat 8 ((sourceOperand s m).toNat + 1) ∧
      (t.a.toNat : Int) = ((s.a.toNat : Int) - v.toNat - (1 - carryNat (s.flag .c) : Nat)) % 256 ∧
      t.flag .c = decide (v.toNat + (1 - carryNat (s.flag .c)) ≤ s.a.toNat) ∧
      t.flag .v = outOfSignedRange (s.a.toInt - v.toInt - (1 - carryNat (s.flag .c) : Nat)) ∧
      ShowsZN t.a t ∧ RunsOn s .isb m [.a] [.c, .z, .v, .n] [(targetAddress s m, v)] t

/-- O34. SLO completes in every operand form and every state: the byte stored at the effective address is twice the
operand modulo 256, C is the operand's bit 7, A is the old A or that byte, Z and N are those of the new A; no other
register or flag changes, the cost is the base count, and every other byte of memory reads as before. (States R280.)
-/
def Obligations.SloShiftsThenOrs : Prop :=
  EncodedAs .slo [0x07, 0x17, 0x0F, 0x1F, 0x1B, 0x03, 0x13] ∧
  [0x07, 0x17, 0x0F, 0x1F, 0x1B, 0x03, 0x13].map defaultBaseCycles = [5, 6, 6, 7, 7, 8, 8] ∧
  ∀ (m : Operand) (s : State),
    ∃ t v, exec (.slo m) s = .next t ∧ v = BitVec.ofNat 8 (2 * (sourceOperand s m).toNat) ∧
      t.flag .c = decide (0x80 ≤ (sourceOperand s m).toNat) ∧
      (∀ k, t.a.getLsbD k = (s.a.getLsbD k || v.getLsbD k)) ∧
      ShowsZN t.a t ∧ RunsOn s .slo m [.a] [.c, .z, .n] [(targetAddress s m, v)] t

/-- O35. With no supplied entry an undefined byte ends in Refused(UndefinedOpcode b). With a supplied entry whose mode
its operation has, it completes exactly as that operation and mode with the operand bytes that follow the opcode byte,
with the entry's base count in place of the table's; with any other supplied entry it completes too. How a supplied
entry runs, an entry whose mode sets no latch its operation reads included, is the model's choice (log entry 4).
(Rests on 49_illegal.md (rule R285); 00_scope.md section 4 (rule R6, UNDEF_ENTRY).) -/
def Obligations.UndefinedBytesRefuseOrRunTheirEntry : Prop :=
  ∀ (b : Byte) (s : State),
    (suppliedEntry s.params b = none → exec (.undefined b) s = .refused (.undefinedOpcode b)) ∧
    (∀ e, suppliedEntry s.params b = some e → ∃ t, exec (.undefined b) s = .next t) ∧
    (∀ e, suppliedEntry s.params b = some e → e.mode ∈ e.op.modes →
      ∃ t u, exec (.undefined b) s = .next t ∧
        exec (Instr.build e.op e.mode (memRead s (s.pc + 1)) (memRead s (s.pc + 2))) s = .next u ∧
        t.setCyc 0 = u.setCyc 0 ∧ t.cyc + baseCycles s.params e.op e.mode = u.cyc + e.cycles)

/-- O36. The irq event is the entry sequence with vector 0xFFFE and 7 cycles when I is 0, and changes nothing when I
is 1: the request is not remembered. The nmi event is the entry sequence with vector 0xFFFA and 8 cycles whatever I
holds. (States R292; R293.) -/
def Obligations.IrqIsGatedAndNmiIsNot : Prop :=
  ∀ s : State, (s.flag .i = false → irq s = enterInterrupt s 0xFFFE 7) ∧ (s.flag .i = true → irq s = s) ∧
    nmi s = enterInterrupt s 0xFFFA 8

/-- O37. For every state, vector and cycle count: the three bytes stored below SP are the high and low byte of PC and
P with B 0, U 1 and the I of before; SP decreases by 3 modulo 256; B is 0, U and I are 1 in the live register and the
other flags unchanged; PC is the little-endian word at the vector after the pushes; CYC is the count; A, X, Y, the
latches and every other byte of memory are unchanged. An irq that is entered stacks I = 0, and RTI then clears I
again. That the latches are unchanged is the model's choice (log entry 6): rule R34 says that the source is silent
there. (Rests on 60_exceptions.md section 2 (rule R294); 48_system.md (rule R268); 10_state.md section 4 (rule R34).)
-/
def Obligations.InterruptEntrySavesAndMasks : Prop :=
  (∀ (s : State) (vector : Word) (cycles : Nat), ∃ t, enterInterrupt s vector cycles = t ∧
    t.sp = s.sp - 3 ∧ t.flag .b = false ∧ t.flag .u = true ∧ t.flag .i = true ∧ t.cyc = cycles ∧
    t.pc.toNat = 256 * (memRead t (vector + 1)).toNat + (memRead t vector).toNat ∧
    KeepsRegisters [.sp] s t ∧ KeepsFlags [.b, .i] s t ∧
    StoresExactly [(stackSlot (s.sp - 2), (s.p &&& 0xEF) ||| 0x20), (stackSlot (s.sp - 1), loByte s.pc),
      (stackSlot s.sp, hiByte s.pc)] s t ∧
    t.ea = s.ea ∧ t.rel = s.rel ∧ t.fetched = s.fetched ∧ t.ticks = s.ticks ∧ t.params = s.params ∧
    t.schedule = s.schedule ∧ geometry t = geometry s) ∧
  (∀ s : State, s.flag .i = false → getFlag (memRead (irq s) (stackSlot (s.sp - 2))) .i = false ∧
    ∃ u, exec .rti (irq s) = .next u ∧ u.flag .i = false)

/-- O38. From every state, after entry through any vector an RTI completes with PC and SP of before, A, X and Y
unchanged, B 0, U 1 and every other flag as before the entry, also where the stack wraps. (Rests on 60_exceptions.md
section 3 (rules R298, R300); 48_system.md (rule R268); 60_exceptions.md section 2 (rule R294).) -/
def Obligations.RtiUndoesInterruptEntry : Prop :=
  ∀ (s : State) (vector : Word) (cycles : Nat), ∃ u, exec .rti (enterInterrupt s vector cycles) = .next u ∧
    u.pc = s.pc ∧ KeepsRegisters [] s u ∧ KeepsFlags [.b] s u ∧ u.flag .b = false ∧ u.flag .u = true

/-- O39. From every state the reset event leaves A, X and Y 0x00, SP 0xFD, P with only U set, CYC 8, the three latches
0 and PC the little-endian word the bus reads at 0xFFFC: the PRG bytes at the mapped offsets with a cartridge, 0x0000
without one under zero_drop, the backing array under flat_backing; RAM, the PPU registers, the cartridge, the backing
array, TICKS, the parameters and the schedule are unchanged. (States R320.) -/
def Obligations.ResetEventSetsTheEntryState : Prop :=
  ∀ s : State, ∃ t, resetEvent s = t ∧
    t.a = 0x00 ∧ t.x = 0x00 ∧ t.y = 0x00 ∧ t.sp = 0xFD ∧ (∀ f, t.flag f = decide (f = .u)) ∧ t.cyc = 8 ∧
    t.ea = 0 ∧ t.rel = 0 ∧ t.fetched = 0 ∧
    t.pc.toNat = 256 * (memRead s 0xFFFD).toNat + (memRead s 0xFFFC).toNat ∧
    (∀ c, s.cart = some c → c.supported = true → c.prgBanks = 1 →
      t.pc.toNat = 256 * (c.prg.read 0x3FFD).toNat + (c.prg.read 0x3FFC).toNat) ∧
    (∀ c, s.cart = some c → c.supported = true → c.prgBanks ≠ 1 →
      t.pc.toNat = 256 * (c.prg.read 0x7FFD).toNat + (c.prg.read 0x7FFC).toNat) ∧
    (s.cart = none → s.params.unclaimed = .zeroDrop → t.pc = 0x0000) ∧
    (s.cart = none → s.params.unclaimed = .flatBacking →
      t.pc.toNat = 256 * (s.back.read 0xFFFD).toNat + (s.back.read 0xFFFC).toNat) ∧
    t.ram = s.ram ∧ t.ppureg = s.ppureg ∧ t.cart = s.cart ∧ t.back = s.back ∧ t.ticks = s.ticks ∧
    t.params = s.params ∧ t.schedule = s.schedule

/-- O40. The reset event leaves State.reset unchanged, and gives it from any register contents on the same memory; its
registers are those of rule R42, its PC 0x0000. No cartridge, the default parameters and the all-zero memory are the
model's choice (log entries 3 and 5). (Rests on 10_state.md section 7 (rule R42); 70_reset_and_hazards.md section 1
(rules R320, R322); 92_eei_decisions.md D16.) -/
def Obligations.ResetStateIsTheStateAfterReset : Prop :=
  resetEvent State.reset = State.reset ∧
  (∀ (a x y sp p fetched : Byte) (pc ea rel : Word) (cyc : Nat),
    resetEvent { State.reset with a, x, y, sp, p, fetched, pc, ea, rel, cyc } = State.reset) ∧
  State.reset.sp = 0xFD ∧ State.reset.p = 0x20 ∧ State.reset.cyc = 8 ∧ State.reset.pc = 0x0000

/-- O41. With an acceptable cartridge or none: addresses up to 0x1FFF reach RAM at the address modulo 2048, 0x2000 to
0x3FFF a PPU register at the address modulo 8, from 0x8000 with a cartridge PRG at the address modulo 16384 with one
bank and modulo 32768 with more, and every other address is unclaimed: under zero_drop it reads 0x00 and a write to it
changes nothing, under flat_backing it reaches the backing byte of the address. A read returns the byte of that place
of its array, and after a write of a byte that place holds the byte. (States R65; R66; R67; R68; R71.) -/
def Obligations.BusDecoderFollowsTheAddressMap : Prop :=
  ∀ (s : State) (a : Word), cartridgeOk s = true →
    (a.toNat ≤ 0x1FFF → locate s a = .ram (a.toNat % 2048) ∧ memRead s a = s.ram.read (a.toNat % 2048) ∧
      ∀ v, (memWrite s a v).ram.read (a.toNat % 2048) = v) ∧
    (0x2000 ≤ a.toNat → a.toNat ≤ 0x3FFF → locate s a = .ppureg (a.toNat % 8) ∧
      memRead s a = s.ppureg.read (a.toNat % 8) ∧ ∀ v, (memWrite s a v).ppureg.read (a.toNat % 8) = v) ∧
    (0x4000 ≤ a.toNat → (a.toNat ≤ 0x7FFF ∨ s.cart = none) →
      (s.params.unclaimed = .zeroDrop → locate s a = .dropped ∧ memRead s a = 0x00 ∧ ∀ v, memWrite s a v = s) ∧
      (s.params.unclaimed = .flatBacking → locate s a = .back a.toNat ∧ memRead s a = s.back.read a.toNat ∧
        ∀ v, (memWrite s a v).back.read a.toNat = v)) ∧
    (∀ c, s.cart = some c → 0x8000 ≤ a.toNat →
      locate s a = .prg (a.toNat % (if c.prgBanks = 1 then 16384 else 32768)) ∧
      cpuMap c a = some (BitVec.ofNat 32 (a.toNat % (if c.prgBanks = 1 then 16384 else 32768))) ∧
      memRead s a = c.prg.read (a.toNat % (if c.prgBanks = 1 then 16384 else 32768)) ∧
      ∀ v, ∃ d, (memWrite s a v).cart = some d ∧
        d.prg.read (a.toNat % (if c.prgBanks = 1 then 16384 else 32768)) = v) ∧
    (∀ c, s.cart = some c → a.toNat < 0x8000 → cpuMap c a = none)

/-- O42. For every state with an acceptable cartridge or none: a byte stored in RAM is read at its four mirrors, a
byte stored in a PPU register at every address of the range with the same low three bits, and with one PRG bank a byte
stored in the cartridge window at the address 0x4000 away. (Rests on 20_memory.md sections 1 to 3 (rules R64 to R66,
R72); 20_memory.md section 7 (rules R92, R94).) -/
def Obligations.StoresAreVisibleAtEveryMirror : Prop :=
  ∀ (s : State) (v : Byte), cartridgeOk s = true →
    (∀ i j k : Nat, i < 2048 → j < 4 → k < 4 →
      memRead (memWrite s (BitVec.ofNat 16 (i + 2048 * j)) v) (BitVec.ofNat 16 (i + 2048 * k)) = v) ∧
    (∀ i j k : Nat, i < 8 → j < 1024 → k < 1024 →
      memRead (memWrite s (BitVec.ofNat 16 (0x2000 + i + 8 * j)) v) (BitVec.ofNat 16 (0x2000 + i + 8 * k)) = v) ∧
    (∀ c, s.cart = some c → c.prgBanks = 1 → ∀ i j k : Nat, i < 16384 → j < 2 → k < 2 →
      memRead (memWrite s (BitVec.ofNat 16 (0x8000 + i + 16384 * j)) v) (BitVec.ofNat 16 (0x8000 + i + 16384 * k)) = v)

/-- O43. For every supported cartridge and address, an offset answered by the CPU-side function is below the size of
PRG, and one answered by either PPU-side function is below the size of CHR. (Rests on 20_memory.md section 3 (rules
R71 to R73); 20_memory.md section 4 (rules R78 to R80); 10_state.md section 6 (rule R38).) -/
def Obligations.MapperOffsetsStayInBounds : Prop :=
  ∀ (c : Cartridge) (a : Word), c.supported = true →
    (∀ off, cpuMap c a = some off → off.toNat < prgSize c.prgBanks) ∧
    (∀ off, ppuMapRead c a = some off → off.toNat < chrSize c.chrBanks) ∧
    (∀ off, ppuMapWrite c a = some off → off.toNat < chrSize c.chrBanks)

/-- O44. With a supported cartridge: a PPU-side read at an address up to 0x1FFF answers the CHR byte at that index; a
PPU-side write there with no CHR bank completes and the byte written is read back while every other CHR byte and the
whole CPU side read as before; with a CHR bank, and at every address from 0x2000 on, the access is refused as
unclaimed. The refusal is the model's choice (log entry 19): rule R81 puts such an access outside the block. (Rests on
20_memory.md section 4 (rules R78 to R81); 93_implementation_defined.md part 1 (U12).) -/
def Obligations.PpuPortReachesChr : Prop :=
  ∀ (s : State) (c : Cartridge) (a : Word), s.cart = some c → c.supported = true →
    (a.toNat ≤ 0x1FFF → ppuRead s a = .next (c.chr.read a.toNat)) ∧
    (0x1FFF < a.toNat → ppuRead s a = .refused (.ppuUnclaimed a)) ∧
    (∀ v, a.toNat ≤ 0x1FFF → c.chrBanks = 0 → ∃ t, ppuWrite s a v = .next t ∧ ppuRead t a = .next v ∧
      (∀ b, b ≠ a → ppuRead t b = ppuRead s b) ∧ (∀ b, memRead t b = memRead s b)) ∧
    (∀ v, (0x1FFF < a.toNat ∨ c.chrBanks ≠ 0) → ppuWrite s a v = .refused (.ppuUnclaimed a))

/-- O45. For every state and operand bytes: zero-page forms stay in page 0 with the index added modulo 256; absolute
indexed forms and (zp),Y add modulo 65536; zero-page pointers take both bytes from page 0, little-endian; the indirect
form takes its high byte from the same page; an immediate is at the address after the opcode. (Rests on
40_addressing_modes.md section 2 (rules R133 to R143); 30_encoding.md section 2 (rule R104); 20_memory.md section 6
(rule R88).) -/
def Obligations.EffectiveAddressesFollowTheModes : Prop :=
  ∀ (s : State) (b lo hi : Byte),
    (targetAddress s (.imm b) = s.pc + 1) ∧
    ((targetAddress s (.zp0 b)).toNat = b.toNat) ∧
    ((targetAddress s (.zpx b)).toNat = (b.toNat + s.x.toNat) % 256) ∧
    ((targetAddress s (.zpy b)).toNat = (b.toNat + s.y.toNat) % 256) ∧
    ((targetAddress s (.abs lo hi)).toNat = 256 * hi.toNat + lo.toNat) ∧
    ((targetAddress s (.abx lo hi)).toNat = (256 * hi.toNat + lo.toNat + s.x.toNat) % 65536) ∧
    ((targetAddress s (.aby lo hi)).toNat = (256 * hi.toNat + lo.toNat + s.y.toNat) % 65536) ∧
    ((targetAddress s (.ind lo hi)).toNat =
      256 * (memRead s (BitVec.ofNat 16 (256 * hi.toNat + (lo.toNat + 1) % 256))).toNat
        + (memRead s (BitVec.ofNat 16 (256 * hi.toNat + lo.toNat))).toNat) ∧
    ((targetAddress s (.izx b)).toNat =
      256 * (memRead s (BitVec.ofNat 16 ((b.toNat + s.x.toNat + 1) % 256))).toNat
        + (memRead s (BitVec.ofNat 16 ((b.toNat + s.x.toNat) % 256))).toNat) ∧
    ((targetAddress s (.izy b)).toNat =
      (256 * (memRead s (BitVec.ofNat 16 ((b.toNat + 1) % 256))).toNat
        + (memRead s (BitVec.ofNat 16 b.toNat)).toNat + s.y.toNat) % 65536)

/-- O46. For every state: ABX, ABY and IZY report a crossing exactly when the low byte of the un-indexed base plus the
index is at least 0x100, also where the sum wraps past 0xFFFF; every other mode reports none. (States R144.) -/
def Obligations.PageCrossingIsACarryOutOfTheLowByte : Prop :=
  ∀ (s : State) (m : Operand), crossesPage (atOperands s) m =
    match m with
    | .abx lo _ => decide (0x100 ≤ lo.toNat + s.x.toNat)
    | .aby lo _ => decide (0x100 ≤ lo.toNat + s.y.toNat)
    | .izy b => decide (0x100 ≤ (memRead s (BitVec.ofNat 16 b.toNat)).toNat + s.y.toNat)
    | _ => false

/-- O47. The operations that request the page-crossing cycle are LDA, LDX, LDY, AND, ORA, EOR, ADC, SBC, CMP and LAX,
and no other. For every well-formed instruction other than an undefined byte, in every state with the default base
counts, the cost left in CYC lies between 2 and 8, page crossings and taken branches included. (Rests on
30_encoding.md section 3 (rule R110); 40_addressing_modes.md section 1 (rules R131, R145); 10_state.md section 4 (rule
R33).) -/
def Obligations.CostsLieBetweenTwoAndEight : Prop :=
  (∀ o : Op, requestsPageCycle o = true ↔
    o ∈ ([.lda, .ldx, .ldy, .and, .ora, .eor, .adc, .sbc, .cmp, .lax] : List Op)) ∧
  ∀ (i : Instr) (s t : State), i.wf = true → i.op ≠ none → s.params.baseCycles = [] → exec i s = .next t →
    2 ≤ t.cyc ∧ t.cyc ≤ 8

/-- O48. For every instruction other than an undefined byte and every state: U of the live register is 0 afterwards
if, and only if, the instruction was PHP. (Rests on 10_state.md section 2 (rule R28); 47_stack_flags.md (rule R247).)
-/
def Obligations.OnlyPhpLeavesUClear : Prop :=
  ∀ (i : Instr) (s t : State), i.op ≠ none → exec i s = .next t → (t.flag .u = false ↔ i = .php)

/-- O49. For every instruction other than an undefined byte, every state and every flag but U: if the flag differs
after the instruction, the instruction is one the table of rule R27 lists for that flag. (Rests on 10_state.md section
2 (rule R27); 43_arithmetic.md section 1 (rule R191).) -/
def Obligations.FlagsChangeOnlyWhereTheTableSays : Prop :=
  ∀ (i : Instr) (o : Op) (s t : State) (f : Flag), i.op = some o → exec i s = .next t → f ≠ .u →
    t.flag f ≠ s.flag f → o ∈ flagWriters f

/-- O50. For every instruction other than an undefined byte, every state and each of A, X, Y and SP: if the register
differs after the instruction, the instruction is one that writes it by rules R20 to R23 (ISB, which writes A by rule
R279, included). (Rests on 10_state.md section 1 (rules R20 to R23); 49_illegal.md (rule R279).) -/
def Obligations.RegistersChangeOnlyWhereTheRulesSay : Prop :=
  ∀ (i : Instr) (o : Op) (s t : State) (r : Reg), i.op = some o → exec i s = .next t →
    t.reg r ≠ s.reg r → o ∈ registerWriters r

/-- O51. For every state: with an unsupported cartridge the step is refused as BadCartridge; with any other the only
possible stop is the refusal of an undefined opcode byte b that is one of the 74 and for which UNDEF_ENTRY supplies no
entry. That every event is refused on an unsupported cartridge, not only its attachment, is the model's choice (log
entry 13). (Rests on 00_scope.md section 5 (rule R11); 49_illegal.md (rule R285); 20_memory.md section 3 (rules R73,
R76).) -/
def Obligations.StepRefusesOnlyByName : Prop :=
  ∀ s : State, (cartridgeOk s = false → step s = .refused .badCartridge) ∧
    (cartridgeOk s = true → ∀ r, step s = .refused r →
      ∃ b ∈ undefinedBytes, r = .undefinedOpcode b ∧ suppliedEntry s.params b = none)

/-- O52. From every state that meets the invariant a step that answers a next state answers one that meets it,
whatever the event: the five storage arrays stay in canonical form and within their sizes, the cartridge stays one the
model has a policy for, under zero_drop the backing array stays empty, and with the default cycle counts CYC stays at
most 8. (Rests on 10_state.md sections 4 and 6 (rules R33, R36 to R39); 20_memory.md section 3 (rule R73);
70_reset_and_hazards.md section 2 (rule R325).) -/
def Obligations.StepKeepsTheInvariant : Prop :=
  ∀ s t : State, s.Inv → step s = .next t → t.Inv

/-- O53. State.reset meets the invariant that every step keeps. (Rests on 10_state.md section 7 (rule R42).) -/
def Obligations.ResetMeetsTheInvariant : Prop :=
  State.reset.Inv

/-- O54. For every state, event and outcome: mapper id, bank counts, CHR bytes and the parameters after a step are
those before it. (Rests on 10_state.md section 5 (rules R41, R43); 10_state.md section 6 (rule R38).) -/
def Obligations.GeometryAndParametersNeverChange : Prop :=
  ∀ s t : State, step s = .next t → geometry t = geometry s ∧ t.params = s.params ∧
    t.cart.map Cartridge.chr = s.cart.map Cartridge.chr

/-- O55. With an acceptable cartridge or none: a tick with CYC 0 runs one instruction and decrements the cost it
leaves, a tick with CYC above 0 only decrements CYC; a SystemClock tick ticks the CPU first when TICKS is a multiple
of 3, increments TICKS, and otherwise touches nothing. (States R325; R330.) -/
def Obligations.TicksDispatchThenCountDown : Prop :=
  ∀ s t : State, cartridgeOk s = true →
    (s.cyc = 0 → runInstruction s = .next t → tick s = .next (t.setCyc (t.cyc - 1))) ∧
    (s.cyc ≠ 0 → tick s = .next (s.setCyc (s.cyc - 1))) ∧
    (s.ticks % 3 = 0 → tick s = .next t → sysclockTick s = .next (t.setTicks (t.ticks + 1))) ∧
    (s.ticks % 3 ≠ 0 → sysclockTick s = .next (s.setTicks (s.ticks + 1)))

/-- O56. From an idle state whose next instruction completes with cost n, for every k from 1 to n, k ticks give the
state the instruction leaves with CYC n - k: every register and byte of memory is final after the first tick and the
machine is idle again after n. (Rests on 70_reset_and_hazards.md section 2 (rules R325, R326).) -/
def Obligations.InstructionOfCostNTakesNTicks : Prop :=
  ∀ (s t : State) (k : Nat), s.cyc = 0 → runInstruction s = .next t → 1 ≤ k → k ≤ t.cyc →
    tickTimes k s = .next (t.setCyc (t.cyc - k))

/-- O57. From every state, whatever countdown is outstanding and wherever TICKS stands: if one Step completes with a
cost of at least 1, the tick-by-tick advance completes in a state that differs from it in CYC, which is 0, and TICKS
alone, and reports failure exactly when PC is then the sentinel. (Rests on 70_reset_and_hazards.md section 3 (rule
R331); 70_reset_and_hazards.md section 2 (rule R327); 00_scope.md section 5 (rule R9).) -/
def Obligations.AdvanceIsOneStep : Prop :=
  ∀ s t : State, runInstruction s = .next t → 1 ≤ t.cyc →
    ∃ n r, advance s = .next ((t.setCyc 0).setTicks (s.ticks + n), r) ∧
      (r = .failure ↔ s.params.sentinel = some t.pc)

/-- O58. For every state, byte list and base: after load_program every address reads as the stores in order leave it,
the bytes at consecutive addresses modulo 65536 and then the base at 0xFFFC and 0xFFFD, each dropped where the bus
drops it; every register, the latches, CYC, TICKS, the parameters, the schedule, the geometry of the cartridge and CHR
are unchanged. (Rests on 70_reset_and_hazards.md section 4 (rule R336).) -/
def Obligations.LoadProgramStoresBytesAndVector : Prop :=
  ∀ (s : State) (bytes : List Byte) (base : Word), ∃ t, loadProgram s bytes base = t ∧
    StoresExactly ([(0xFFFD, hiByte base), (0xFFFC, loByte base)] ++ programStores base bytes) s t ∧
    KeepsRegisters [] s t ∧ t.p = s.p ∧ t.pc = s.pc ∧ t.cyc = s.cyc ∧ t.ea = s.ea ∧ t.rel = s.rel ∧
    t.fetched = s.fetched ∧ t.ticks = s.ticks ∧ t.params = s.params ∧ t.schedule = s.schedule ∧
    geometry t = geometry s

/-- O59. A cartridge with another mapper id than 0, no PRG bank, or PRG or CHR bytes of another length than its bank
counts say is refused as BadCartridge. Any other is attached: the CPU reads its PRG bytes at 0x8000 plus the index
(and 0x4000 above with one bank), the PPU side its CHR bytes, and a state that meets the invariant still does. (Rests
on 70_reset_and_hazards.md section 4 (rule R335); 20_memory.md section 3 (rules R71, R72); 10_state.md section 6 (rule
R38).) -/
def Obligations.AttachedCartridgesAreReadThroughTheWindow : Prop :=
  ∀ (c : CartridgeImage) (s : State),
    (¬(c.mapperId = 0 ∧ 1 ≤ c.prgBanks ∧ c.prg.length = c.prgBanks * 16384 ∧
        c.chr.length = (if c.chrBanks = 0 then 8192 else c.chrBanks * 8192)) →
      attachCartridge c s = .refused .badCartridge) ∧
    (c.mapperId = 0 → 1 ≤ c.prgBanks → c.prg.length = c.prgBanks * 16384 →
      c.chr.length = (if c.chrBanks = 0 then 8192 else c.chrBanks * 8192) →
      ∃ t, attachCartridge c s = .next t ∧ geometry t = some (0, c.prgBanks, c.chrBanks) ∧
        (∀ i, i < 32768 → memRead t (BitVec.ofNat 16 (0x8000 + i)) =
          c.prg.getD (if c.prgBanks = 1 then i % 16384 else i) 0x00) ∧
        (∀ i, i < 8192 → ppuRead t (BitVec.ofNat 16 i) = .next (c.chr.getD i 0x00)) ∧
        (s.Inv → t.Inv))
end

