-- ==== Sys2Proof/Laws/State.lean ====
section
/-! SUPPORT. One lemma per field per register write, so that no proof unfolds a record update. -/

namespace Sys2Proof.Machine

section
variable (s : State) (v : Byte)
@[simp] theorem State.setA_a : (s.setA v).a = v := rfl
@[simp] theorem State.setA_x : (s.setA v).x = s.x := rfl
@[simp] theorem State.setA_y : (s.setA v).y = s.y := rfl
@[simp] theorem State.setA_sp : (s.setA v).sp = s.sp := rfl
@[simp] theorem State.setA_p : (s.setA v).p = s.p := rfl
@[simp] theorem State.setA_pc : (s.setA v).pc = s.pc := rfl
@[simp] theorem State.setA_cyc : (s.setA v).cyc = s.cyc := rfl
@[simp] theorem State.setA_ea : (s.setA v).ea = s.ea := rfl
@[simp] theorem State.setA_rel : (s.setA v).rel = s.rel := rfl
@[simp] theorem State.setA_fetched : (s.setA v).fetched = s.fetched := rfl
@[simp] theorem State.setA_ram : (s.setA v).ram = s.ram := rfl
@[simp] theorem State.setA_ppureg : (s.setA v).ppureg = s.ppureg := rfl
@[simp] theorem State.setA_cart : (s.setA v).cart = s.cart := rfl
@[simp] theorem State.setA_back : (s.setA v).back = s.back := rfl
@[simp] theorem State.setA_ticks : (s.setA v).ticks = s.ticks := rfl
@[simp] theorem State.setA_params : (s.setA v).params = s.params := rfl
@[simp] theorem State.setA_schedule : (s.setA v).schedule = s.schedule := rfl
end

section
variable (s : State) (v : Byte)
@[simp] theorem State.setX_a : (s.setX v).a = s.a := rfl
@[simp] theorem State.setX_x : (s.setX v).x = v := rfl
@[simp] theorem State.setX_y : (s.setX v).y = s.y := rfl
@[simp] theorem State.setX_sp : (s.setX v).sp = s.sp := rfl
@[simp] theorem State.setX_p : (s.setX v).p = s.p := rfl
@[simp] theorem State.setX_pc : (s.setX v).pc = s.pc := rfl
@[simp] theorem State.setX_cyc : (s.setX v).cyc = s.cyc := rfl
@[simp] theorem State.setX_ea : (s.setX v).ea = s.ea := rfl
@[simp] theorem State.setX_rel : (s.setX v).rel = s.rel := rfl
@[simp] theorem State.setX_fetched : (s.setX v).fetched = s.fetched := rfl
@[simp] theorem State.setX_ram : (s.setX v).ram = s.ram := rfl
@[simp] theorem State.setX_ppureg : (s.setX v).ppureg = s.ppureg := rfl
@[simp] theorem State.setX_cart : (s.setX v).cart = s.cart := rfl
@[simp] theorem State.setX_back : (s.setX v).back = s.back := rfl
@[simp] theorem State.setX_ticks : (s.setX v).ticks = s.ticks := rfl
@[simp] theorem State.setX_params : (s.setX v).params = s.params := rfl
@[simp] theorem State.setX_schedule : (s.setX v).schedule = s.schedule := rfl
end

section
variable (s : State) (v : Byte)
@[simp] theorem State.setY_a : (s.setY v).a = s.a := rfl
@[simp] theorem State.setY_x : (s.setY v).x = s.x := rfl
@[simp] theorem State.setY_y : (s.setY v).y = v := rfl
@[simp] theorem State.setY_sp : (s.setY v).sp = s.sp := rfl
@[simp] theorem State.setY_p : (s.setY v).p = s.p := rfl
@[simp] theorem State.setY_pc : (s.setY v).pc = s.pc := rfl
@[simp] theorem State.setY_cyc : (s.setY v).cyc = s.cyc := rfl
@[simp] theorem State.setY_ea : (s.setY v).ea = s.ea := rfl
@[simp] theorem State.setY_rel : (s.setY v).rel = s.rel := rfl
@[simp] theorem State.setY_fetched : (s.setY v).fetched = s.fetched := rfl
@[simp] theorem State.setY_ram : (s.setY v).ram = s.ram := rfl
@[simp] theorem State.setY_ppureg : (s.setY v).ppureg = s.ppureg := rfl
@[simp] theorem State.setY_cart : (s.setY v).cart = s.cart := rfl
@[simp] theorem State.setY_back : (s.setY v).back = s.back := rfl
@[simp] theorem State.setY_ticks : (s.setY v).ticks = s.ticks := rfl
@[simp] theorem State.setY_params : (s.setY v).params = s.params := rfl
@[simp] theorem State.setY_schedule : (s.setY v).schedule = s.schedule := rfl
end

section
variable (s : State) (v : Byte)
@[simp] theorem State.setSp_a : (s.setSp v).a = s.a := rfl
@[simp] theorem State.setSp_x : (s.setSp v).x = s.x := rfl
@[simp] theorem State.setSp_y : (s.setSp v).y = s.y := rfl
@[simp] theorem State.setSp_sp : (s.setSp v).sp = v := rfl
@[simp] theorem State.setSp_p : (s.setSp v).p = s.p := rfl
@[simp] theorem State.setSp_pc : (s.setSp v).pc = s.pc := rfl
@[simp] theorem State.setSp_cyc : (s.setSp v).cyc = s.cyc := rfl
@[simp] theorem State.setSp_ea : (s.setSp v).ea = s.ea := rfl
@[simp] theorem State.setSp_rel : (s.setSp v).rel = s.rel := rfl
@[simp] theorem State.setSp_fetched : (s.setSp v).fetched = s.fetched := rfl
@[simp] theorem State.setSp_ram : (s.setSp v).ram = s.ram := rfl
@[simp] theorem State.setSp_ppureg : (s.setSp v).ppureg = s.ppureg := rfl
@[simp] theorem State.setSp_cart : (s.setSp v).cart = s.cart := rfl
@[simp] theorem State.setSp_back : (s.setSp v).back = s.back := rfl
@[simp] theorem State.setSp_ticks : (s.setSp v).ticks = s.ticks := rfl
@[simp] theorem State.setSp_params : (s.setSp v).params = s.params := rfl
@[simp] theorem State.setSp_schedule : (s.setSp v).schedule = s.schedule := rfl
end

section
variable (s : State) (v : Byte)
@[simp] theorem State.setP_a : (s.setP v).a = s.a := rfl
@[simp] theorem State.setP_x : (s.setP v).x = s.x := rfl
@[simp] theorem State.setP_y : (s.setP v).y = s.y := rfl
@[simp] theorem State.setP_sp : (s.setP v).sp = s.sp := rfl
@[simp] theorem State.setP_p : (s.setP v).p = v := rfl
@[simp] theorem State.setP_pc : (s.setP v).pc = s.pc := rfl
@[simp] theorem State.setP_cyc : (s.setP v).cyc = s.cyc := rfl
@[simp] theorem State.setP_ea : (s.setP v).ea = s.ea := rfl
@[simp] theorem State.setP_rel : (s.setP v).rel = s.rel := rfl
@[simp] theorem State.setP_fetched : (s.setP v).fetched = s.fetched := rfl
@[simp] theorem State.setP_ram : (s.setP v).ram = s.ram := rfl
@[simp] theorem State.setP_ppureg : (s.setP v).ppureg = s.ppureg := rfl
@[simp] theorem State.setP_cart : (s.setP v).cart = s.cart := rfl
@[simp] theorem State.setP_back : (s.setP v).back = s.back := rfl
@[simp] theorem State.setP_ticks : (s.setP v).ticks = s.ticks := rfl
@[simp] theorem State.setP_params : (s.setP v).params = s.params := rfl
@[simp] theorem State.setP_schedule : (s.setP v).schedule = s.schedule := rfl
end

section
variable (s : State) (v : Word)
@[simp] theorem State.setPc_a : (s.setPc v).a = s.a := rfl
@[simp] theorem State.setPc_x : (s.setPc v).x = s.x := rfl
@[simp] theorem State.setPc_y : (s.setPc v).y = s.y := rfl
@[simp] theorem State.setPc_sp : (s.setPc v).sp = s.sp := rfl
@[simp] theorem State.setPc_p : (s.setPc v).p = s.p := rfl
@[simp] theorem State.setPc_pc : (s.setPc v).pc = v := rfl
@[simp] theorem State.setPc_cyc : (s.setPc v).cyc = s.cyc := rfl
@[simp] theorem State.setPc_ea : (s.setPc v).ea = s.ea := rfl
@[simp] theorem State.setPc_rel : (s.setPc v).rel = s.rel := rfl
@[simp] theorem State.setPc_fetched : (s.setPc v).fetched = s.fetched := rfl
@[simp] theorem State.setPc_ram : (s.setPc v).ram = s.ram := rfl
@[simp] theorem State.setPc_ppureg : (s.setPc v).ppureg = s.ppureg := rfl
@[simp] theorem State.setPc_cart : (s.setPc v).cart = s.cart := rfl
@[simp] theorem State.setPc_back : (s.setPc v).back = s.back := rfl
@[simp] theorem State.setPc_ticks : (s.setPc v).ticks = s.ticks := rfl
@[simp] theorem State.setPc_params : (s.setPc v).params = s.params := rfl
@[simp] theorem State.setPc_schedule : (s.setPc v).schedule = s.schedule := rfl
end

section
variable (s : State) (v : Nat)
@[simp] theorem State.setCyc_a : (s.setCyc v).a = s.a := rfl
@[simp] theorem State.setCyc_x : (s.setCyc v).x = s.x := rfl
@[simp] theorem State.setCyc_y : (s.setCyc v).y = s.y := rfl
@[simp] theorem State.setCyc_sp : (s.setCyc v).sp = s.sp := rfl
@[simp] theorem State.setCyc_p : (s.setCyc v).p = s.p := rfl
@[simp] theorem State.setCyc_pc : (s.setCyc v).pc = s.pc := rfl
@[simp] theorem State.setCyc_cyc : (s.setCyc v).cyc = v := rfl
@[simp] theorem State.setCyc_ea : (s.setCyc v).ea = s.ea := rfl
@[simp] theorem State.setCyc_rel : (s.setCyc v).rel = s.rel := rfl
@[simp] theorem State.setCyc_fetched : (s.setCyc v).fetched = s.fetched := rfl
@[simp] theorem State.setCyc_ram : (s.setCyc v).ram = s.ram := rfl
@[simp] theorem State.setCyc_ppureg : (s.setCyc v).ppureg = s.ppureg := rfl
@[simp] theorem State.setCyc_cart : (s.setCyc v).cart = s.cart := rfl
@[simp] theorem State.setCyc_back : (s.setCyc v).back = s.back := rfl
@[simp] theorem State.setCyc_ticks : (s.setCyc v).ticks = s.ticks := rfl
@[simp] theorem State.setCyc_params : (s.setCyc v).params = s.params := rfl
@[simp] theorem State.setCyc_schedule : (s.setCyc v).schedule = s.schedule := rfl
end

section
variable (s : State) (v : Word)
@[simp] theorem State.setEa_a : (s.setEa v).a = s.a := rfl
@[simp] theorem State.setEa_x : (s.setEa v).x = s.x := rfl
@[simp] theorem State.setEa_y : (s.setEa v).y = s.y := rfl
@[simp] theorem State.setEa_sp : (s.setEa v).sp = s.sp := rfl
@[simp] theorem State.setEa_p : (s.setEa v).p = s.p := rfl
@[simp] theorem State.setEa_pc : (s.setEa v).pc = s.pc := rfl
@[simp] theorem State.setEa_cyc : (s.setEa v).cyc = s.cyc := rfl
@[simp] theorem State.setEa_ea : (s.setEa v).ea = v := rfl
@[simp] theorem State.setEa_rel : (s.setEa v).rel = s.rel := rfl
@[simp] theorem State.setEa_fetched : (s.setEa v).fetched = s.fetched := rfl
@[simp] theorem State.setEa_ram : (s.setEa v).ram = s.ram := rfl
@[simp] theorem State.setEa_ppureg : (s.setEa v).ppureg = s.ppureg := rfl
@[simp] theorem State.setEa_cart : (s.setEa v).cart = s.cart := rfl
@[simp] theorem State.setEa_back : (s.setEa v).back = s.back := rfl
@[simp] theorem State.setEa_ticks : (s.setEa v).ticks = s.ticks := rfl
@[simp] theorem State.setEa_params : (s.setEa v).params = s.params := rfl
@[simp] theorem State.setEa_schedule : (s.setEa v).schedule = s.schedule := rfl
end

section
variable (s : State) (v : Word)
@[simp] theorem State.setRel_a : (s.setRel v).a = s.a := rfl
@[simp] theorem State.setRel_x : (s.setRel v).x = s.x := rfl
@[simp] theorem State.setRel_y : (s.setRel v).y = s.y := rfl
@[simp] theorem State.setRel_sp : (s.setRel v).sp = s.sp := rfl
@[simp] theorem State.setRel_p : (s.setRel v).p = s.p := rfl
@[simp] theorem State.setRel_pc : (s.setRel v).pc = s.pc := rfl
@[simp] theorem State.setRel_cyc : (s.setRel v).cyc = s.cyc := rfl
@[simp] theorem State.setRel_ea : (s.setRel v).ea = s.ea := rfl
@[simp] theorem State.setRel_rel : (s.setRel v).rel = v := rfl
@[simp] theorem State.setRel_fetched : (s.setRel v).fetched = s.fetched := rfl
@[simp] theorem State.setRel_ram : (s.setRel v).ram = s.ram := rfl
@[simp] theorem State.setRel_ppureg : (s.setRel v).ppureg = s.ppureg := rfl
@[simp] theorem State.setRel_cart : (s.setRel v).cart = s.cart := rfl
@[simp] theorem State.setRel_back : (s.setRel v).back = s.back := rfl
@[simp] theorem State.setRel_ticks : (s.setRel v).ticks = s.ticks := rfl
@[simp] theorem State.setRel_params : (s.setRel v).params = s.params := rfl
@[simp] theorem State.setRel_schedule : (s.setRel v).schedule = s.schedule := rfl
end

section
variable (s : State) (v : Byte)
@[simp] theorem State.setFetched_a : (s.setFetched v).a = s.a := rfl
@[simp] theorem State.setFetched_x : (s.setFetched v).x = s.x := rfl
@[simp] theorem State.setFetched_y : (s.setFetched v).y = s.y := rfl
@[simp] theorem State.setFetched_sp : (s.setFetched v).sp = s.sp := rfl
@[simp] theorem State.setFetched_p : (s.setFetched v).p = s.p := rfl
@[simp] theorem State.setFetched_pc : (s.setFetched v).pc = s.pc := rfl
@[simp] theorem State.setFetched_cyc : (s.setFetched v).cyc = s.cyc := rfl
@[simp] theorem State.setFetched_ea : (s.setFetched v).ea = s.ea := rfl
@[simp] theorem State.setFetched_rel : (s.setFetched v).rel = s.rel := rfl
@[simp] theorem State.setFetched_fetched : (s.setFetched v).fetched = v := rfl
@[simp] theorem State.setFetched_ram : (s.setFetched v).ram = s.ram := rfl
@[simp] theorem State.setFetched_ppureg : (s.setFetched v).ppureg = s.ppureg := rfl
@[simp] theorem State.setFetched_cart : (s.setFetched v).cart = s.cart := rfl
@[simp] theorem State.setFetched_back : (s.setFetched v).back = s.back := rfl
@[simp] theorem State.setFetched_ticks : (s.setFetched v).ticks = s.ticks := rfl
@[simp] theorem State.setFetched_params : (s.setFetched v).params = s.params := rfl
@[simp] theorem State.setFetched_schedule : (s.setFetched v).schedule = s.schedule := rfl
end

section
variable (s : State) (v : Memory)
@[simp] theorem State.setRam_a : (s.setRam v).a = s.a := rfl
@[simp] theorem State.setRam_x : (s.setRam v).x = s.x := rfl
@[simp] theorem State.setRam_y : (s.setRam v).y = s.y := rfl
@[simp] theorem State.setRam_sp : (s.setRam v).sp = s.sp := rfl
@[simp] theorem State.setRam_p : (s.setRam v).p = s.p := rfl
@[simp] theorem State.setRam_pc : (s.setRam v).pc = s.pc := rfl
@[simp] theorem State.setRam_cyc : (s.setRam v).cyc = s.cyc := rfl
@[simp] theorem State.setRam_ea : (s.setRam v).ea = s.ea := rfl
@[simp] theorem State.setRam_rel : (s.setRam v).rel = s.rel := rfl
@[simp] theorem State.setRam_fetched : (s.setRam v).fetched = s.fetched := rfl
@[simp] theorem State.setRam_ram : (s.setRam v).ram = v := rfl
@[simp] theorem State.setRam_ppureg : (s.setRam v).ppureg = s.ppureg := rfl
@[simp] theorem State.setRam_cart : (s.setRam v).cart = s.cart := rfl
@[simp] theorem State.setRam_back : (s.setRam v).back = s.back := rfl
@[simp] theorem State.setRam_ticks : (s.setRam v).ticks = s.ticks := rfl
@[simp] theorem State.setRam_params : (s.setRam v).params = s.params := rfl
@[simp] theorem State.setRam_schedule : (s.setRam v).schedule = s.schedule := rfl
end

section
variable (s : State) (v : Memory)
@[simp] theorem State.setPpureg_a : (s.setPpureg v).a = s.a := rfl
@[simp] theorem State.setPpureg_x : (s.setPpureg v).x = s.x := rfl
@[simp] theorem State.setPpureg_y : (s.setPpureg v).y = s.y := rfl
@[simp] theorem State.setPpureg_sp : (s.setPpureg v).sp = s.sp := rfl
@[simp] theorem State.setPpureg_p : (s.setPpureg v).p = s.p := rfl
@[simp] theorem State.setPpureg_pc : (s.setPpureg v).pc = s.pc := rfl
@[simp] theorem State.setPpureg_cyc : (s.setPpureg v).cyc = s.cyc := rfl
@[simp] theorem State.setPpureg_ea : (s.setPpureg v).ea = s.ea := rfl
@[simp] theorem State.setPpureg_rel : (s.setPpureg v).rel = s.rel := rfl
@[simp] theorem State.setPpureg_fetched : (s.setPpureg v).fetched = s.fetched := rfl
@[simp] theorem State.setPpureg_ram : (s.setPpureg v).ram = s.ram := rfl
@[simp] theorem State.setPpureg_ppureg : (s.setPpureg v).ppureg = v := rfl
@[simp] theorem State.setPpureg_cart : (s.setPpureg v).cart = s.cart := rfl
@[simp] theorem State.setPpureg_back : (s.setPpureg v).back = s.back := rfl
@[simp] theorem State.setPpureg_ticks : (s.setPpureg v).ticks = s.ticks := rfl
@[simp] theorem State.setPpureg_params : (s.setPpureg v).params = s.params := rfl
@[simp] theorem State.setPpureg_schedule : (s.setPpureg v).schedule = s.schedule := rfl
end

section
variable (s : State) (v : Option Cartridge)
@[simp] theorem State.setCart_a : (s.setCart v).a = s.a := rfl
@[simp] theorem State.setCart_x : (s.setCart v).x = s.x := rfl
@[simp] theorem State.setCart_y : (s.setCart v).y = s.y := rfl
@[simp] theorem State.setCart_sp : (s.setCart v).sp = s.sp := rfl
@[simp] theorem State.setCart_p : (s.setCart v).p = s.p := rfl
@[simp] theorem State.setCart_pc : (s.setCart v).pc = s.pc := rfl
@[simp] theorem State.setCart_cyc : (s.setCart v).cyc = s.cyc := rfl
@[simp] theorem State.setCart_ea : (s.setCart v).ea = s.ea := rfl
@[simp] theorem State.setCart_rel : (s.setCart v).rel = s.rel := rfl
@[simp] theorem State.setCart_fetched : (s.setCart v).fetched = s.fetched := rfl
@[simp] theorem State.setCart_ram : (s.setCart v).ram = s.ram := rfl
@[simp] theorem State.setCart_ppureg : (s.setCart v).ppureg = s.ppureg := rfl
@[simp] theorem State.setCart_cart : (s.setCart v).cart = v := rfl
@[simp] theorem State.setCart_back : (s.setCart v).back = s.back := rfl
@[simp] theorem State.setCart_ticks : (s.setCart v).ticks = s.ticks := rfl
@[simp] theorem State.setCart_params : (s.setCart v).params = s.params := rfl
@[simp] theorem State.setCart_schedule : (s.setCart v).schedule = s.schedule := rfl
end

section
variable (s : State) (v : Memory)
@[simp] theorem State.setBack_a : (s.setBack v).a = s.a := rfl
@[simp] theorem State.setBack_x : (s.setBack v).x = s.x := rfl
@[simp] theorem State.setBack_y : (s.setBack v).y = s.y := rfl
@[simp] theorem State.setBack_sp : (s.setBack v).sp = s.sp := rfl
@[simp] theorem State.setBack_p : (s.setBack v).p = s.p := rfl
@[simp] theorem State.setBack_pc : (s.setBack v).pc = s.pc := rfl
@[simp] theorem State.setBack_cyc : (s.setBack v).cyc = s.cyc := rfl
@[simp] theorem State.setBack_ea : (s.setBack v).ea = s.ea := rfl
@[simp] theorem State.setBack_rel : (s.setBack v).rel = s.rel := rfl
@[simp] theorem State.setBack_fetched : (s.setBack v).fetched = s.fetched := rfl
@[simp] theorem State.setBack_ram : (s.setBack v).ram = s.ram := rfl
@[simp] theorem State.setBack_ppureg : (s.setBack v).ppureg = s.ppureg := rfl
@[simp] theorem State.setBack_cart : (s.setBack v).cart = s.cart := rfl
@[simp] theorem State.setBack_back : (s.setBack v).back = v := rfl
@[simp] theorem State.setBack_ticks : (s.setBack v).ticks = s.ticks := rfl
@[simp] theorem State.setBack_params : (s.setBack v).params = s.params := rfl
@[simp] theorem State.setBack_schedule : (s.setBack v).schedule = s.schedule := rfl
end

section
variable (s : State) (v : Nat)
@[simp] theorem State.setTicks_a : (s.setTicks v).a = s.a := rfl
@[simp] theorem State.setTicks_x : (s.setTicks v).x = s.x := rfl
@[simp] theorem State.setTicks_y : (s.setTicks v).y = s.y := rfl
@[simp] theorem State.setTicks_sp : (s.setTicks v).sp = s.sp := rfl
@[simp] theorem State.setTicks_p : (s.setTicks v).p = s.p := rfl
@[simp] theorem State.setTicks_pc : (s.setTicks v).pc = s.pc := rfl
@[simp] theorem State.setTicks_cyc : (s.setTicks v).cyc = s.cyc := rfl
@[simp] theorem State.setTicks_ea : (s.setTicks v).ea = s.ea := rfl
@[simp] theorem State.setTicks_rel : (s.setTicks v).rel = s.rel := rfl
@[simp] theorem State.setTicks_fetched : (s.setTicks v).fetched = s.fetched := rfl
@[simp] theorem State.setTicks_ram : (s.setTicks v).ram = s.ram := rfl
@[simp] theorem State.setTicks_ppureg : (s.setTicks v).ppureg = s.ppureg := rfl
@[simp] theorem State.setTicks_cart : (s.setTicks v).cart = s.cart := rfl
@[simp] theorem State.setTicks_back : (s.setTicks v).back = s.back := rfl
@[simp] theorem State.setTicks_ticks : (s.setTicks v).ticks = v := rfl
@[simp] theorem State.setTicks_params : (s.setTicks v).params = s.params := rfl
@[simp] theorem State.setTicks_schedule : (s.setTicks v).schedule = s.schedule := rfl
end

section
variable (s : State) (v : List Event)
@[simp] theorem State.setSchedule_a : (s.setSchedule v).a = s.a := rfl
@[simp] theorem State.setSchedule_x : (s.setSchedule v).x = s.x := rfl
@[simp] theorem State.setSchedule_y : (s.setSchedule v).y = s.y := rfl
@[simp] theorem State.setSchedule_sp : (s.setSchedule v).sp = s.sp := rfl
@[simp] theorem State.setSchedule_p : (s.setSchedule v).p = s.p := rfl
@[simp] theorem State.setSchedule_pc : (s.setSchedule v).pc = s.pc := rfl
@[simp] theorem State.setSchedule_cyc : (s.setSchedule v).cyc = s.cyc := rfl
@[simp] theorem State.setSchedule_ea : (s.setSchedule v).ea = s.ea := rfl
@[simp] theorem State.setSchedule_rel : (s.setSchedule v).rel = s.rel := rfl
@[simp] theorem State.setSchedule_fetched : (s.setSchedule v).fetched = s.fetched := rfl
@[simp] theorem State.setSchedule_ram : (s.setSchedule v).ram = s.ram := rfl
@[simp] theorem State.setSchedule_ppureg : (s.setSchedule v).ppureg = s.ppureg := rfl
@[simp] theorem State.setSchedule_cart : (s.setSchedule v).cart = s.cart := rfl
@[simp] theorem State.setSchedule_back : (s.setSchedule v).back = s.back := rfl
@[simp] theorem State.setSchedule_ticks : (s.setSchedule v).ticks = s.ticks := rfl
@[simp] theorem State.setSchedule_params : (s.setSchedule v).params = s.params := rfl
@[simp] theorem State.setSchedule_schedule : (s.setSchedule v).schedule = v := rfl
end

end Sys2Proof.Machine
end

