-- ==== Sys2Proof/Laws/Flags.lean ====
section
/-! SUPPORT. The flags: reading a flag after writing one, what each flag computation leaves unchanged, and the flags
each computation shows. -/

namespace Sys2Proof.Machine

theorem Flag.bit_lt (f : Flag) : f.bit < 8 := by cases f <;> decide

theorem Flag.bit_inj {f g : Flag} : f.bit = g.bit ↔ f = g := by cases f <;> cases g <;> decide

theorem flagMask_getLsbD (f : Flag) (j : Nat) : (1#8 <<< f.bit).getLsbD j = decide (j = f.bit) := by
  have := f.bit_lt
  rw [Bool.eq_iff_iff]
  simp only [BitVec.getLsbD_shiftLeft, BitVec.getLsbD_one, Bool.and_eq_true, Bool.not_eq_true', decide_eq_true_eq,
    decide_eq_false_iff_not]
  omega

/-- A flag after writing one: the one written, or as before. -/
theorem getFlag_withFlag (p : Byte) (f g : Flag) (v : Bool) :
    getFlag (withFlag p f v) g = if g = f then v else getFlag p g := by
  have hg := g.bit_lt
  unfold getFlag withFlag
  cases v
  · simp only [Bool.false_eq_true, if_false, BitVec.getLsbD_and, BitVec.getLsbD_not, flagMask_getLsbD, Flag.bit_inj, hg]
    by_cases h : g = f <;> simp [h]
  · simp only [if_true, BitVec.getLsbD_or, flagMask_getLsbD, Flag.bit_inj]
    by_cases h : g = f <;> simp [h]

@[simp] theorem State.flag_setFlag (s : State) (f g : Flag) (v : Bool) :
    (s.setFlag f v).flag g = if g = f then v else s.flag g := getFlag_withFlag s.p f g v

/-- Two status bytes with the same eight flags are the same byte. -/
theorem eq_of_getFlag_eq {p q : Byte} (h : ∀ f, getFlag p f = getFlag q f) : p = q := by
  have hc := h .c; have hz := h .z; have hi := h .i; have hd := h .d
  have hb := h .b; have hu := h .u; have hv := h .v; have hn := h .n
  simp only [getFlag, Flag.bit] at hc hz hi hd hb hu hv hn
  apply BitVec.eq_of_getLsbD_eq
  intro i hi'
  have : i = 0 ∨ i = 1 ∨ i = 2 ∨ i = 3 ∨ i = 4 ∨ i = 5 ∨ i = 6 ∨ i = 7 := by omega
  rcases this with rfl | rfl | rfl | rfl | rfl | rfl | rfl | rfl <;> assumption

section
variable (s : State) (f : Flag) (v : Bool)
@[simp] theorem State.setFlag_a : (s.setFlag f v).a = s.a := rfl
@[simp] theorem State.setFlag_x : (s.setFlag f v).x = s.x := rfl
@[simp] theorem State.setFlag_y : (s.setFlag f v).y = s.y := rfl
@[simp] theorem State.setFlag_sp : (s.setFlag f v).sp = s.sp := rfl
@[simp] theorem State.setFlag_pc : (s.setFlag f v).pc = s.pc := rfl
@[simp] theorem State.setFlag_cyc : (s.setFlag f v).cyc = s.cyc := rfl
@[simp] theorem State.setFlag_ea : (s.setFlag f v).ea = s.ea := rfl
@[simp] theorem State.setFlag_rel : (s.setFlag f v).rel = s.rel := rfl
@[simp] theorem State.setFlag_fetched : (s.setFlag f v).fetched = s.fetched := rfl
@[simp] theorem State.setFlag_ram : (s.setFlag f v).ram = s.ram := rfl
@[simp] theorem State.setFlag_ppureg : (s.setFlag f v).ppureg = s.ppureg := rfl
@[simp] theorem State.setFlag_cart : (s.setFlag f v).cart = s.cart := rfl
@[simp] theorem State.setFlag_back : (s.setFlag f v).back = s.back := rfl
@[simp] theorem State.setFlag_ticks : (s.setFlag f v).ticks = s.ticks := rfl
@[simp] theorem State.setFlag_params : (s.setFlag f v).params = s.params := rfl
@[simp] theorem State.setFlag_schedule : (s.setFlag f v).schedule = s.schedule := rfl
end

section
variable (s : State) (v : Byte)
@[simp] theorem State.setZN_a : (s.setZN v).a = s.a := rfl
@[simp] theorem State.setZN_x : (s.setZN v).x = s.x := rfl
@[simp] theorem State.setZN_y : (s.setZN v).y = s.y := rfl
@[simp] theorem State.setZN_sp : (s.setZN v).sp = s.sp := rfl
@[simp] theorem State.setZN_pc : (s.setZN v).pc = s.pc := rfl
@[simp] theorem State.setZN_cyc : (s.setZN v).cyc = s.cyc := rfl
@[simp] theorem State.setZN_ea : (s.setZN v).ea = s.ea := rfl
@[simp] theorem State.setZN_rel : (s.setZN v).rel = s.rel := rfl
@[simp] theorem State.setZN_fetched : (s.setZN v).fetched = s.fetched := rfl
@[simp] theorem State.setZN_ram : (s.setZN v).ram = s.ram := rfl
@[simp] theorem State.setZN_ppureg : (s.setZN v).ppureg = s.ppureg := rfl
@[simp] theorem State.setZN_cart : (s.setZN v).cart = s.cart := rfl
@[simp] theorem State.setZN_back : (s.setZN v).back = s.back := rfl
@[simp] theorem State.setZN_ticks : (s.setZN v).ticks = s.ticks := rfl
@[simp] theorem State.setZN_params : (s.setZN v).params = s.params := rfl
@[simp] theorem State.setZN_schedule : (s.setZN v).schedule = s.schedule := rfl
end

section
variable (s : State) (r m : Byte)
@[simp] theorem State.compare_a : (s.compare r m).a = s.a := by simp [State.compare]
@[simp] theorem State.compare_x : (s.compare r m).x = s.x := by simp [State.compare]
@[simp] theorem State.compare_y : (s.compare r m).y = s.y := by simp [State.compare]
@[simp] theorem State.compare_sp : (s.compare r m).sp = s.sp := by simp [State.compare]
@[simp] theorem State.compare_pc : (s.compare r m).pc = s.pc := by simp [State.compare]
@[simp] theorem State.compare_cyc : (s.compare r m).cyc = s.cyc := by simp [State.compare]
@[simp] theorem State.compare_ea : (s.compare r m).ea = s.ea := by simp [State.compare]
@[simp] theorem State.compare_rel : (s.compare r m).rel = s.rel := by simp [State.compare]
@[simp] theorem State.compare_fetched : (s.compare r m).fetched = s.fetched := by simp [State.compare]
@[simp] theorem State.compare_ram : (s.compare r m).ram = s.ram := by simp [State.compare]
@[simp] theorem State.compare_ppureg : (s.compare r m).ppureg = s.ppureg := by simp [State.compare]
@[simp] theorem State.compare_cart : (s.compare r m).cart = s.cart := by simp [State.compare]
@[simp] theorem State.compare_back : (s.compare r m).back = s.back := by simp [State.compare]
@[simp] theorem State.compare_ticks : (s.compare r m).ticks = s.ticks := by simp [State.compare]
@[simp] theorem State.compare_params : (s.compare r m).params = s.params := by simp [State.compare]
@[simp] theorem State.compare_schedule : (s.compare r m).schedule = s.schedule := by simp [State.compare]
end

section
variable (s : State) (m : Byte)
@[simp] theorem State.bitTest_a : (s.bitTest m).a = s.a := by simp [State.bitTest]
@[simp] theorem State.bitTest_x : (s.bitTest m).x = s.x := by simp [State.bitTest]
@[simp] theorem State.bitTest_y : (s.bitTest m).y = s.y := by simp [State.bitTest]
@[simp] theorem State.bitTest_sp : (s.bitTest m).sp = s.sp := by simp [State.bitTest]
@[simp] theorem State.bitTest_pc : (s.bitTest m).pc = s.pc := by simp [State.bitTest]
@[simp] theorem State.bitTest_cyc : (s.bitTest m).cyc = s.cyc := by simp [State.bitTest]
@[simp] theorem State.bitTest_ea : (s.bitTest m).ea = s.ea := by simp [State.bitTest]
@[simp] theorem State.bitTest_rel : (s.bitTest m).rel = s.rel := by simp [State.bitTest]
@[simp] theorem State.bitTest_fetched : (s.bitTest m).fetched = s.fetched := by simp [State.bitTest]
@[simp] theorem State.bitTest_ram : (s.bitTest m).ram = s.ram := by simp [State.bitTest]
@[simp] theorem State.bitTest_ppureg : (s.bitTest m).ppureg = s.ppureg := by simp [State.bitTest]
@[simp] theorem State.bitTest_cart : (s.bitTest m).cart = s.cart := by simp [State.bitTest]
@[simp] theorem State.bitTest_back : (s.bitTest m).back = s.back := by simp [State.bitTest]
@[simp] theorem State.bitTest_ticks : (s.bitTest m).ticks = s.ticks := by simp [State.bitTest]
@[simp] theorem State.bitTest_params : (s.bitTest m).params = s.params := by simp [State.bitTest]
@[simp] theorem State.bitTest_schedule : (s.bitTest m).schedule = s.schedule := by simp [State.bitTest]
end

section
variable (s : State) (m : Byte)
@[simp] theorem State.addWithCarry_x : (s.addWithCarry m).x = s.x := by simp [State.addWithCarry]
@[simp] theorem State.addWithCarry_y : (s.addWithCarry m).y = s.y := by simp [State.addWithCarry]
@[simp] theorem State.addWithCarry_sp : (s.addWithCarry m).sp = s.sp := by simp [State.addWithCarry]
@[simp] theorem State.addWithCarry_pc : (s.addWithCarry m).pc = s.pc := by simp [State.addWithCarry]
@[simp] theorem State.addWithCarry_cyc : (s.addWithCarry m).cyc = s.cyc := by simp [State.addWithCarry]
@[simp] theorem State.addWithCarry_ea : (s.addWithCarry m).ea = s.ea := by simp [State.addWithCarry]
@[simp] theorem State.addWithCarry_rel : (s.addWithCarry m).rel = s.rel := by simp [State.addWithCarry]
@[simp] theorem State.addWithCarry_fetched : (s.addWithCarry m).fetched = s.fetched := by simp [State.addWithCarry]
@[simp] theorem State.addWithCarry_ram : (s.addWithCarry m).ram = s.ram := by simp [State.addWithCarry]
@[simp] theorem State.addWithCarry_ppureg : (s.addWithCarry m).ppureg = s.ppureg := by simp [State.addWithCarry]
@[simp] theorem State.addWithCarry_cart : (s.addWithCarry m).cart = s.cart := by simp [State.addWithCarry]
@[simp] theorem State.addWithCarry_back : (s.addWithCarry m).back = s.back := by simp [State.addWithCarry]
@[simp] theorem State.addWithCarry_ticks : (s.addWithCarry m).ticks = s.ticks := by simp [State.addWithCarry]
@[simp] theorem State.addWithCarry_params : (s.addWithCarry m).params = s.params := by simp [State.addWithCarry]
@[simp] theorem State.addWithCarry_schedule : (s.addWithCarry m).schedule = s.schedule := by simp [State.addWithCarry]
end

section
variable (s : State) (m : Byte)
@[simp] theorem State.subtractWithCarry_x : (s.subtractWithCarry m).x = s.x := by simp [State.subtractWithCarry]
@[simp] theorem State.subtractWithCarry_y : (s.subtractWithCarry m).y = s.y := by simp [State.subtractWithCarry]
@[simp] theorem State.subtractWithCarry_sp : (s.subtractWithCarry m).sp = s.sp := by simp [State.subtractWithCarry]
@[simp] theorem State.subtractWithCarry_pc : (s.subtractWithCarry m).pc = s.pc := by simp [State.subtractWithCarry]
@[simp] theorem State.subtractWithCarry_cyc : (s.subtractWithCarry m).cyc = s.cyc := by simp [State.subtractWithCarry]
@[simp] theorem State.subtractWithCarry_ea : (s.subtractWithCarry m).ea = s.ea := by simp [State.subtractWithCarry]
@[simp] theorem State.subtractWithCarry_rel : (s.subtractWithCarry m).rel = s.rel := by simp [State.subtractWithCarry]
@[simp] theorem State.subtractWithCarry_fetched : (s.subtractWithCarry m).fetched = s.fetched := by simp [State.subtractWithCarry]
@[simp] theorem State.subtractWithCarry_ram : (s.subtractWithCarry m).ram = s.ram := by simp [State.subtractWithCarry]
@[simp] theorem State.subtractWithCarry_ppureg : (s.subtractWithCarry m).ppureg = s.ppureg := by simp [State.subtractWithCarry]
@[simp] theorem State.subtractWithCarry_cart : (s.subtractWithCarry m).cart = s.cart := by simp [State.subtractWithCarry]
@[simp] theorem State.subtractWithCarry_back : (s.subtractWithCarry m).back = s.back := by simp [State.subtractWithCarry]
@[simp] theorem State.subtractWithCarry_ticks : (s.subtractWithCarry m).ticks = s.ticks := by simp [State.subtractWithCarry]
@[simp] theorem State.subtractWithCarry_params : (s.subtractWithCarry m).params = s.params := by simp [State.subtractWithCarry]
@[simp] theorem State.subtractWithCarry_schedule : (s.subtractWithCarry m).schedule = s.schedule := by simp [State.subtractWithCarry]
end

@[simp] theorem State.flag_setA (s : State) (v : Byte) (f : Flag) : (s.setA v).flag f = s.flag f := rfl
@[simp] theorem State.flag_setX (s : State) (v : Byte) (f : Flag) : (s.setX v).flag f = s.flag f := rfl
@[simp] theorem State.flag_setY (s : State) (v : Byte) (f : Flag) : (s.setY v).flag f = s.flag f := rfl
@[simp] theorem State.flag_setSp (s : State) (v : Byte) (f : Flag) : (s.setSp v).flag f = s.flag f := rfl
@[simp] theorem State.flag_setPc (s : State) (v : Word) (f : Flag) : (s.setPc v).flag f = s.flag f := rfl
@[simp] theorem State.flag_setCyc (s : State) (v : Nat) (f : Flag) : (s.setCyc v).flag f = s.flag f := rfl
@[simp] theorem State.flag_setEa (s : State) (v : Word) (f : Flag) : (s.setEa v).flag f = s.flag f := rfl
@[simp] theorem State.flag_setRel (s : State) (v : Word) (f : Flag) : (s.setRel v).flag f = s.flag f := rfl
@[simp] theorem State.flag_setFetched (s : State) (v : Byte) (f : Flag) : (s.setFetched v).flag f = s.flag f := rfl
@[simp] theorem State.flag_setRam (s : State) (v : Memory) (f : Flag) : (s.setRam v).flag f = s.flag f := rfl
@[simp] theorem State.flag_setPpureg (s : State) (v : Memory) (f : Flag) : (s.setPpureg v).flag f = s.flag f := rfl
@[simp] theorem State.flag_setCart (s : State) (v : Option Cartridge) (f : Flag) : (s.setCart v).flag f = s.flag f := rfl
@[simp] theorem State.flag_setBack (s : State) (v : Memory) (f : Flag) : (s.setBack v).flag f = s.flag f := rfl
@[simp] theorem State.flag_setTicks (s : State) (v : Nat) (f : Flag) : (s.setTicks v).flag f = s.flag f := rfl
@[simp] theorem State.flag_setSchedule (s : State) (v : List Event) (f : Flag) : (s.setSchedule v).flag f = s.flag f := rfl

/-- `SetZN(v)` says everything: Z and N from `v`, every other flag as before. -/
@[simp] theorem State.flag_setZN (s : State) (v : Byte) (f : Flag) :
    (s.setZN v).flag f = if f = .n then v.getLsbD 7 else if f = .z then v == 0 else s.flag f := by
  simp [State.setZN]

@[simp] theorem State.flag_compare (s : State) (r m : Byte) (f : Flag) :
    (s.compare r m).flag f =
      if f = .n then (r.setWidth 16 - m.setWidth 16 : Word).getLsbD 7
      else if f = .z then ((r.setWidth 16 - m.setWidth 16 : Word).setWidth 8 == 0#8)
      else if f = .c then decide (m ≤ r) else s.flag f := by
  simp [State.compare]

@[simp] theorem State.flag_bitTest (s : State) (m : Byte) (f : Flag) :
    (s.bitTest m).flag f =
      if f = .v then m.getLsbD 6 else if f = .n then m.getLsbD 7
      else if f = .z then (s.a &&& m == 0) else s.flag f := by
  simp [State.bitTest]

@[simp] theorem State.addWithCarry_a (s : State) (m : Byte) :
    (s.addWithCarry m).a = adderByte s.a m (s.flag .c) := by
  simp [State.addWithCarry]

@[simp] theorem State.flag_addWithCarry (s : State) (m : Byte) (f : Flag) :
    (s.addWithCarry m).flag f =
      if f = .n then (adderByte s.a m (s.flag .c)).getLsbD 7
      else if f = .v then adderOverflow s.a m (adderByte s.a m (s.flag .c))
      else if f = .z then (adderByte s.a m (s.flag .c) == 0)
      else if f = .c then decide (0xFF < adderSum s.a m (s.flag .c)) else s.flag f := by
  simp [State.addWithCarry]

@[simp] theorem State.subtractWithCarry_a (s : State) (m : Byte) :
    (s.subtractWithCarry m).a = adderByte s.a (m ^^^ 0xFF) (s.flag .c) := by
  simp [State.subtractWithCarry]

@[simp] theorem State.flag_subtractWithCarry (s : State) (m : Byte) (f : Flag) :
    (s.subtractWithCarry m).flag f =
      if f = .n then (adderByte s.a (m ^^^ 0xFF) (s.flag .c)).getLsbD 7
      else if f = .v then subtractOverflow s.a (m ^^^ 0xFF) (adderByte s.a (m ^^^ 0xFF) (s.flag .c))
      else if f = .z then (adderByte s.a (m ^^^ 0xFF) (s.flag .c) == 0)
      else if f = .c then decide (0xFF < adderSum s.a (m ^^^ 0xFF) (s.flag .c)) else s.flag f := by
  simp [State.subtractWithCarry]

/-- Bits and zero tests of a byte as numbers. -/
theorem byte_beq_zero (v : Byte) : (v == 0) = decide (v.toNat = 0) := by
  rw [Bool.eq_iff_iff]
  simp [BitVec.toNat_eq]

theorem byte_bit7 (v : Byte) : v.getLsbD 7 = decide (0x80 ≤ v.toNat) := by
  have := v.isLt
  rw [BitVec.getLsbD, Nat.testBit_eq_decide_div_mod_eq, Bool.eq_iff_iff]
  simp
  omega

theorem byte_bit6 (v : Byte) : v.getLsbD 6 = decide (0x40 ≤ v.toNat % 0x80) := by
  have := v.isLt
  rw [BitVec.getLsbD, Nat.testBit_eq_decide_div_mod_eq, Bool.eq_iff_iff]
  simp
  omega

theorem byte_bit0 (v : Byte) : v.getLsbD 0 = decide (v.toNat % 2 = 1) := by
  rw [BitVec.getLsbD, Nat.testBit_eq_decide_div_mod_eq, Bool.eq_iff_iff]
  simp

end Sys2Proof.Machine
end

