-- ==== Sys2Proof/Laws/Memory.lean ====
section
/-! SUPPORT. The storage arrays: a read after a write, and that every operation keeps the canonical form and the
bounds. -/

namespace Sys2Proof.Machine

theorem Memory.read_erase (m : Memory) (i j : Nat) :
    (m.erase i).read j = if j = i then Memory.unlisted else m.read j := by
  induction m with
  | nil => simp [Memory.erase, Memory.read]
  | cons c rest ih =>
    obtain ⟨k, b⟩ := c
    by_cases hk : k = i
    · subst hk
      by_cases hj : j = k
      · subst hj; simp [Memory.erase, ih]
      · simp [Memory.erase, Memory.read, hj, ih, Ne.symm hj]
    · by_cases hj : j = i
      · subst hj; simp [Memory.erase, Memory.read, hk, ih]
      · simp [Memory.erase, Memory.read, hk, hj, ih]

theorem Memory.read_insert (m : Memory) (i j : Nat) (v : Byte) :
    (m.insert i v).read j = if j = i then v else m.read j := by
  induction m with
  | nil => simp only [Memory.insert, Memory.read, eq_comm (a := i)]
  | cons c rest ih =>
    obtain ⟨k, b⟩ := c
    simp only [Memory.insert]
    split
    · by_cases hj : j = i
      · simp [Memory.read, hj]
      · simp [Memory.read, hj, Ne.symm hj]
    · split
      · next hik =>
        subst hik
        by_cases hj : j = i
        · simp [Memory.read, hj]
        · simp [Memory.read, hj, Ne.symm hj]
      · next hik =>
        by_cases hj : j = i
        · subst hj; simp [Memory.read, ih, Ne.symm hik]
        · simp [Memory.read, ih, hj]

/-- A read after a write: the byte written at its index, every other byte as before. -/
theorem Memory.read_write (m : Memory) (i j : Nat) (v : Byte) :
    (m.write i v).read j = if j = i then v else m.read j := by
  unfold Memory.write
  split
  · next h => rw [Memory.read_erase, h]
  · exact Memory.read_insert m i j v

theorem Memory.wfFrom_mono {m : Memory} {lo lo' : Nat} (hle : lo' ≤ lo) (h : Memory.wfFrom lo m = true) :
    Memory.wfFrom lo' m = true := by
  cases m with
  | nil => rfl
  | cons c rest =>
    obtain ⟨k, b⟩ := c
    simp only [Memory.wfFrom, Bool.and_eq_true, decide_eq_true_eq] at h ⊢
    exact ⟨⟨by omega, h.1.2⟩, h.2⟩

theorem Memory.wfFrom_erase {m : Memory} {lo : Nat} (i : Nat) (h : Memory.wfFrom lo m = true) :
    Memory.wfFrom lo (m.erase i) = true := by
  induction m generalizing lo with
  | nil => rfl
  | cons c rest ih =>
    obtain ⟨k, b⟩ := c
    simp only [Memory.wfFrom, Bool.and_eq_true, decide_eq_true_eq] at h
    simp only [Memory.erase]
    split
    · exact Memory.wfFrom_mono (by omega) (ih h.2)
    · simp only [Memory.wfFrom, Bool.and_eq_true, decide_eq_true_eq]
      exact ⟨h.1, ih h.2⟩

theorem Memory.wfFrom_insert {m : Memory} {lo i : Nat} {v : Byte} (hi : lo ≤ i) (hv : v ≠ Memory.unlisted)
    (h : Memory.wfFrom lo m = true) : Memory.wfFrom lo (m.insert i v) = true := by
  induction m generalizing lo with
  | nil => simp [Memory.insert, Memory.wfFrom, hi, hv]
  | cons c rest ih =>
    obtain ⟨k, b⟩ := c
    simp only [Memory.wfFrom, Bool.and_eq_true, decide_eq_true_eq] at h
    simp only [Memory.insert]
    split
    · simp only [Memory.wfFrom, Bool.and_eq_true, decide_eq_true_eq]
      exact ⟨⟨hi, hv⟩, ⟨⟨by omega, h.1.2⟩, h.2⟩⟩
    · split
      · next hik =>
        subst hik
        simp only [Memory.wfFrom, Bool.and_eq_true, decide_eq_true_eq]
        exact ⟨⟨hi, hv⟩, h.2⟩
      · simp only [Memory.wfFrom, Bool.and_eq_true, decide_eq_true_eq]
        exact ⟨h.1, ih (by omega) h.2⟩

/-- A write keeps the canonical form. -/
theorem Memory.wf_write {m : Memory} (i : Nat) (v : Byte) (h : m.wf = true) : (m.write i v).wf = true := by
  unfold Memory.write Memory.wf
  split
  · exact Memory.wfFrom_erase i h
  · next hv => exact Memory.wfFrom_insert (Nat.zero_le i) hv h

theorem Memory.within_erase {m : Memory} {size : Nat} (i : Nat) (h : m.within size = true) :
    (m.erase i).within size = true := by
  induction m with
  | nil => rfl
  | cons c rest ih =>
    obtain ⟨k, b⟩ := c
    simp only [Memory.within, List.all_cons, Bool.and_eq_true, decide_eq_true_eq] at h ih
    simp only [Memory.erase]
    split
    · exact ih h.2
    · simp only [Memory.within, List.all_cons, Bool.and_eq_true, decide_eq_true_eq]
      exact ⟨h.1, ih h.2⟩

theorem Memory.within_insert {m : Memory} {size i : Nat} (v : Byte) (hi : i < size) (h : m.within size = true) :
    (m.insert i v).within size = true := by
  induction m with
  | nil => simp [Memory.insert, Memory.within, hi]
  | cons c rest ih =>
    obtain ⟨k, b⟩ := c
    simp only [Memory.within, List.all_cons, Bool.and_eq_true, decide_eq_true_eq] at h ih
    simp only [Memory.insert]
    split
    · simp only [Memory.within, List.all_cons, Bool.and_eq_true, decide_eq_true_eq]
      exact ⟨hi, h⟩
    · split
      · simp only [Memory.within, List.all_cons, Bool.and_eq_true, decide_eq_true_eq]
        exact ⟨hi, h.2⟩
      · simp only [Memory.within, List.all_cons, Bool.and_eq_true, decide_eq_true_eq]
        exact ⟨h.1, ih h.2⟩

/-- A write inside the array keeps every index inside it. -/
theorem Memory.within_write {m : Memory} {size i : Nat} (v : Byte) (hi : i < size) (h : m.within size = true) :
    (m.write i v).within size = true := by
  unfold Memory.write
  split
  · exact Memory.within_erase i h
  · exact Memory.within_insert v hi h

theorem Memory.wfFrom_ofBytesFrom (k : Nat) (bytes : List Byte) :
    Memory.wfFrom k (Memory.ofBytesFrom k bytes) = true := by
  induction bytes generalizing k with
  | nil => rfl
  | cons b rest ih =>
    simp only [Memory.ofBytesFrom]
    split
    · exact Memory.wfFrom_mono (by omega) (ih (k + 1))
    · next hb => simp [Memory.wfFrom, hb, ih (k + 1)]

/-- An array built from its bytes is canonical. -/
theorem Memory.wf_ofBytes (bytes : List Byte) : (Memory.ofBytes bytes).wf = true :=
  Memory.wfFrom_ofBytesFrom 0 bytes

theorem Memory.within_ofBytesFrom (k : Nat) (bytes : List Byte) :
    (Memory.ofBytesFrom k bytes).within (k + bytes.length) = true := by
  induction bytes generalizing k with
  | nil => rfl
  | cons b rest ih =>
    have h := ih (k + 1)
    have hlen : k + 1 + rest.length = k + (b :: rest).length := by simp only [List.length_cons]; omega
    rw [hlen] at h
    simp only [Memory.ofBytesFrom]
    split
    · exact h
    · simp only [Memory.within, List.all_cons, Bool.and_eq_true, decide_eq_true_eq, List.length_cons]
      exact ⟨by omega, by simpa [Memory.within] using h⟩

theorem Memory.read_ofBytesFrom_low (k j : Nat) (bytes : List Byte) (h : j < k) :
    (Memory.ofBytesFrom k bytes).read j = Memory.unlisted := by
  induction bytes generalizing k with
  | nil => rfl
  | cons b rest ih =>
    simp only [Memory.ofBytesFrom]
    split
    · exact ih (k + 1) (by omega)
    · simp only [Memory.read]
      rw [if_neg (by omega)]
      exact ih (k + 1) (by omega)

/-- An array built from its bytes reads as them. -/
theorem Memory.read_ofBytesFrom (k i : Nat) (bytes : List Byte) :
    (Memory.ofBytesFrom k bytes).read (k + i) = bytes.getD i Memory.unlisted := by
  induction bytes generalizing k i with
  | nil => simp [Memory.ofBytesFrom, Memory.read]
  | cons b rest ih =>
    cases i with
    | zero =>
      simp only [Memory.ofBytesFrom]
      split
      · next hb => rw [Memory.read_ofBytesFrom_low _ _ _ (by omega)]; simp [hb]
      · simp [Memory.read]
    | succ i =>
      have h := ih (k + 1) i
      have hk : k + (i + 1) = k + 1 + i := by omega
      simp only [Memory.ofBytesFrom]
      split
      · rw [hk, h]; simp
      · simp only [Memory.read]
        rw [if_neg (by omega), hk, h]; simp

end Sys2Proof.Machine
end

