-- ==== Sys2Proof/Laws/Bus.lean ====
section
/-! SUPPORT. The bus: which fields the decoder depends on, a read after a write, and the fields a write leaves alone. -/

namespace Sys2Proof.Machine

/-- The mapper translates by the geometry of the cartridge alone. -/
theorem cpuMap_congr {c d : Cartridge} (h1 : c.mapperId = d.mapperId) (h2 : c.prgBanks = d.prgBanks) (a : Word) :
    cpuMap c a = cpuMap d a := by
  unfold cpuMap Cartridge.supported
  rw [h1, h2]

theorem locate_writeStorage (s : State) (place : Storage) (v : Byte) (a : Word) :
    locate (writeStorage s place v) a = locate s a := by
  cases place with
  | prg off =>
    unfold writeStorage locate
    cases h : s.cart with
    | none => simp
    | some c =>
      have := cpuMap_congr (c := { c with prg := c.prg.write off v }) (d := c) rfl rfl a
      simp [this]
  | _ => rfl

/-- A write changes no translation. -/
@[simp] theorem locate_memWrite (s : State) (b : Word) (v : Byte) (a : Word) :
    locate (memWrite s b v) a = locate s a := locate_writeStorage s _ v a

/-- Without a cartridge no address reaches PRG. -/
theorem locate_ne_prg {s : State} (h : s.cart = none) (a : Word) (off : Nat) : locate s a ≠ .prg off := by
  unfold locate
  simp only [h, Option.bind_none]
  split
  · simp
  · split
    · simp
    · split <;> simp

/-- A storage byte after a write to a place an address reaches: the byte written there, every other byte as before. -/
theorem readStorage_writeStorage (s : State) (place other : Storage) (v : Byte)
    (hp : ∀ off, place = .prg off → s.cart ≠ none) :
    readStorage (writeStorage s place v) other =
      if other = place ∧ place ≠ .dropped then v else readStorage s other := by
  cases place with
  | dropped => simp [writeStorage]
  | ram i =>
    cases other <;> simp [writeStorage, readStorage, Memory.read_write]
  | ppureg i =>
    cases other <;> simp [writeStorage, readStorage, Memory.read_write]
  | back i =>
    cases other <;> simp [writeStorage, readStorage, Memory.read_write]
  | prg off =>
    cases hc : s.cart with
    | none => exact absurd hc (hp off rfl)
    | some c =>
      cases other <;> simp [writeStorage, readStorage, Memory.read_write, hc]

/-- An address after a write: the byte written where both reach one storage byte, else as before. -/
theorem memRead_memWrite (s : State) (a b : Word) (v : Byte) :
    memRead (memWrite s a v) b =
      if locate s b = locate s a ∧ locate s a ≠ .dropped then v else memRead s b := by
  unfold memRead
  rw [locate_memWrite]
  exact readStorage_writeStorage s _ _ v fun off h hc => locate_ne_prg hc a off h

section
variable (s : State) (b : Word) (v : Byte)

@[simp] theorem memWrite_a : (memWrite s b v).a = s.a := by
  unfold memWrite; cases locate s b <;> rfl
@[simp] theorem memWrite_x : (memWrite s b v).x = s.x := by
  unfold memWrite; cases locate s b <;> rfl
@[simp] theorem memWrite_y : (memWrite s b v).y = s.y := by
  unfold memWrite; cases locate s b <;> rfl
@[simp] theorem memWrite_sp : (memWrite s b v).sp = s.sp := by
  unfold memWrite; cases locate s b <;> rfl
@[simp] theorem memWrite_p : (memWrite s b v).p = s.p := by
  unfold memWrite; cases locate s b <;> rfl
@[simp] theorem memWrite_pc : (memWrite s b v).pc = s.pc := by
  unfold memWrite; cases locate s b <;> rfl
@[simp] theorem memWrite_cyc : (memWrite s b v).cyc = s.cyc := by
  unfold memWrite; cases locate s b <;> rfl
@[simp] theorem memWrite_ea : (memWrite s b v).ea = s.ea := by
  unfold memWrite; cases locate s b <;> rfl
@[simp] theorem memWrite_rel : (memWrite s b v).rel = s.rel := by
  unfold memWrite; cases locate s b <;> rfl
@[simp] theorem memWrite_fetched : (memWrite s b v).fetched = s.fetched := by
  unfold memWrite; cases locate s b <;> rfl
@[simp] theorem memWrite_ticks : (memWrite s b v).ticks = s.ticks := by
  unfold memWrite; cases locate s b <;> rfl
@[simp] theorem memWrite_params : (memWrite s b v).params = s.params := by
  unfold memWrite; cases locate s b <;> rfl
@[simp] theorem memWrite_schedule : (memWrite s b v).schedule = s.schedule := by
  unfold memWrite; cases locate s b <;> rfl
end

/-! A register write changes no translation, no storage byte, and commutes with a store. -/

@[simp] theorem locate_setA (s : State) (v : Byte) (a : Word) : locate (s.setA v) a = locate s a := rfl
@[simp] theorem readStorage_setA (s : State) (v : Byte) (p : Storage) :
    readStorage (s.setA v) p = readStorage s p := by cases p <;> rfl
@[simp] theorem memRead_setA (s : State) (v : Byte) (a : Word) : memRead (s.setA v) a = memRead s a := by
  unfold memRead; rw [locate_setA, readStorage_setA]
theorem memWrite_setA (s : State) (w : Byte) (a : Word) (v : Byte) :
    memWrite (s.setA w) a v = (memWrite s a v).setA w := by
  unfold memWrite; rw [locate_setA]; cases locate s a <;> rfl
@[simp] theorem locate_setX (s : State) (v : Byte) (a : Word) : locate (s.setX v) a = locate s a := rfl
@[simp] theorem readStorage_setX (s : State) (v : Byte) (p : Storage) :
    readStorage (s.setX v) p = readStorage s p := by cases p <;> rfl
@[simp] theorem memRead_setX (s : State) (v : Byte) (a : Word) : memRead (s.setX v) a = memRead s a := by
  unfold memRead; rw [locate_setX, readStorage_setX]
theorem memWrite_setX (s : State) (w : Byte) (a : Word) (v : Byte) :
    memWrite (s.setX w) a v = (memWrite s a v).setX w := by
  unfold memWrite; rw [locate_setX]; cases locate s a <;> rfl
@[simp] theorem locate_setY (s : State) (v : Byte) (a : Word) : locate (s.setY v) a = locate s a := rfl
@[simp] theorem readStorage_setY (s : State) (v : Byte) (p : Storage) :
    readStorage (s.setY v) p = readStorage s p := by cases p <;> rfl
@[simp] theorem memRead_setY (s : State) (v : Byte) (a : Word) : memRead (s.setY v) a = memRead s a := by
  unfold memRead; rw [locate_setY, readStorage_setY]
theorem memWrite_setY (s : State) (w : Byte) (a : Word) (v : Byte) :
    memWrite (s.setY w) a v = (memWrite s a v).setY w := by
  unfold memWrite; rw [locate_setY]; cases locate s a <;> rfl
@[simp] theorem locate_setSp (s : State) (v : Byte) (a : Word) : locate (s.setSp v) a = locate s a := rfl
@[simp] theorem readStorage_setSp (s : State) (v : Byte) (p : Storage) :
    readStorage (s.setSp v) p = readStorage s p := by cases p <;> rfl
@[simp] theorem memRead_setSp (s : State) (v : Byte) (a : Word) : memRead (s.setSp v) a = memRead s a := by
  unfold memRead; rw [locate_setSp, readStorage_setSp]
theorem memWrite_setSp (s : State) (w : Byte) (a : Word) (v : Byte) :
    memWrite (s.setSp w) a v = (memWrite s a v).setSp w := by
  unfold memWrite; rw [locate_setSp]; cases locate s a <;> rfl
@[simp] theorem locate_setP (s : State) (v : Byte) (a : Word) : locate (s.setP v) a = locate s a := rfl
@[simp] theorem readStorage_setP (s : State) (v : Byte) (p : Storage) :
    readStorage (s.setP v) p = readStorage s p := by cases p <;> rfl
@[simp] theorem memRead_setP (s : State) (v : Byte) (a : Word) : memRead (s.setP v) a = memRead s a := by
  unfold memRead; rw [locate_setP, readStorage_setP]
theorem memWrite_setP (s : State) (w : Byte) (a : Word) (v : Byte) :
    memWrite (s.setP w) a v = (memWrite s a v).setP w := by
  unfold memWrite; rw [locate_setP]; cases locate s a <;> rfl
@[simp] theorem locate_setPc (s : State) (v : Word) (a : Word) : locate (s.setPc v) a = locate s a := rfl
@[simp] theorem readStorage_setPc (s : State) (v : Word) (p : Storage) :
    readStorage (s.setPc v) p = readStorage s p := by cases p <;> rfl
@[simp] theorem memRead_setPc (s : State) (v : Word) (a : Word) : memRead (s.setPc v) a = memRead s a := by
  unfold memRead; rw [locate_setPc, readStorage_setPc]
theorem memWrite_setPc (s : State) (w : Word) (a : Word) (v : Byte) :
    memWrite (s.setPc w) a v = (memWrite s a v).setPc w := by
  unfold memWrite; rw [locate_setPc]; cases locate s a <;> rfl
@[simp] theorem locate_setCyc (s : State) (v : Nat) (a : Word) : locate (s.setCyc v) a = locate s a := rfl
@[simp] theorem readStorage_setCyc (s : State) (v : Nat) (p : Storage) :
    readStorage (s.setCyc v) p = readStorage s p := by cases p <;> rfl
@[simp] theorem memRead_setCyc (s : State) (v : Nat) (a : Word) : memRead (s.setCyc v) a = memRead s a := by
  unfold memRead; rw [locate_setCyc, readStorage_setCyc]
theorem memWrite_setCyc (s : State) (w : Nat) (a : Word) (v : Byte) :
    memWrite (s.setCyc w) a v = (memWrite s a v).setCyc w := by
  unfold memWrite; rw [locate_setCyc]; cases locate s a <;> rfl
@[simp] theorem locate_setEa (s : State) (v : Word) (a : Word) : locate (s.setEa v) a = locate s a := rfl
@[simp] theorem readStorage_setEa (s : State) (v : Word) (p : Storage) :
    readStorage (s.setEa v) p = readStorage s p := by cases p <;> rfl
@[simp] theorem memRead_setEa (s : State) (v : Word) (a : Word) : memRead (s.setEa v) a = memRead s a := by
  unfold memRead; rw [locate_setEa, readStorage_setEa]
theorem memWrite_setEa (s : State) (w : Word) (a : Word) (v : Byte) :
    memWrite (s.setEa w) a v = (memWrite s a v).setEa w := by
  unfold memWrite; rw [locate_setEa]; cases locate s a <;> rfl
@[simp] theorem locate_setRel (s : State) (v : Word) (a : Word) : locate (s.setRel v) a = locate s a := rfl
@[simp] theorem readStorage_setRel (s : State) (v : Word) (p : Storage) :
    readStorage (s.setRel v) p = readStorage s p := by cases p <;> rfl
@[simp] theorem memRead_setRel (s : State) (v : Word) (a : Word) : memRead (s.setRel v) a = memRead s a := by
  unfold memRead; rw [locate_setRel, readStorage_setRel]
theorem memWrite_setRel (s : State) (w : Word) (a : Word) (v : Byte) :
    memWrite (s.setRel w) a v = (memWrite s a v).setRel w := by
  unfold memWrite; rw [locate_setRel]; cases locate s a <;> rfl
@[simp] theorem locate_setFetched (s : State) (v : Byte) (a : Word) : locate (s.setFetched v) a = locate s a := rfl
@[simp] theorem readStorage_setFetched (s : State) (v : Byte) (p : Storage) :
    readStorage (s.setFetched v) p = readStorage s p := by cases p <;> rfl
@[simp] theorem memRead_setFetched (s : State) (v : Byte) (a : Word) : memRead (s.setFetched v) a = memRead s a := by
  unfold memRead; rw [locate_setFetched, readStorage_setFetched]
theorem memWrite_setFetched (s : State) (w : Byte) (a : Word) (v : Byte) :
    memWrite (s.setFetched w) a v = (memWrite s a v).setFetched w := by
  unfold memWrite; rw [locate_setFetched]; cases locate s a <;> rfl
@[simp] theorem locate_setTicks (s : State) (v : Nat) (a : Word) : locate (s.setTicks v) a = locate s a := rfl
@[simp] theorem readStorage_setTicks (s : State) (v : Nat) (p : Storage) :
    readStorage (s.setTicks v) p = readStorage s p := by cases p <;> rfl
@[simp] theorem memRead_setTicks (s : State) (v : Nat) (a : Word) : memRead (s.setTicks v) a = memRead s a := by
  unfold memRead; rw [locate_setTicks, readStorage_setTicks]
theorem memWrite_setTicks (s : State) (w : Nat) (a : Word) (v : Byte) :
    memWrite (s.setTicks w) a v = (memWrite s a v).setTicks w := by
  unfold memWrite; rw [locate_setTicks]; cases locate s a <;> rfl
@[simp] theorem locate_setSchedule (s : State) (v : List Event) (a : Word) : locate (s.setSchedule v) a = locate s a := rfl
@[simp] theorem readStorage_setSchedule (s : State) (v : List Event) (p : Storage) :
    readStorage (s.setSchedule v) p = readStorage s p := by cases p <;> rfl
@[simp] theorem memRead_setSchedule (s : State) (v : List Event) (a : Word) : memRead (s.setSchedule v) a = memRead s a := by
  unfold memRead; rw [locate_setSchedule, readStorage_setSchedule]
theorem memWrite_setSchedule (s : State) (w : List Event) (a : Word) (v : Byte) :
    memWrite (s.setSchedule w) a v = (memWrite s a v).setSchedule w := by
  unfold memWrite; rw [locate_setSchedule]; cases locate s a <;> rfl

/-- Two states with the same storage and the same parameters: no address is translated or read differently. -/
def SameStorage (s t : State) : Prop :=
  t.ram = s.ram ∧ t.ppureg = s.ppureg ∧ t.cart = s.cart ∧ t.back = s.back ∧ t.params = s.params

theorem SameStorage.locate {s t : State} (h : SameStorage s t) (a : Word) : locate t a = locate s a := by
  obtain ⟨_, _, h3, _, h5⟩ := h
  unfold Machine.locate
  rw [h3, h5]

theorem SameStorage.readStorage {s t : State} (h : SameStorage s t) (p : Storage) :
    readStorage t p = readStorage s p := by
  obtain ⟨h1, h2, h3, h4, _⟩ := h
  cases p <;> simp [Machine.readStorage, h1, h2, h3, h4]

theorem SameStorage.memRead {s t : State} (h : SameStorage s t) (a : Word) : memRead t a = memRead s a := by
  unfold Machine.memRead
  rw [h.locate, h.readStorage]

/-! The flag computations change no translation and no storage byte. -/

theorem sameStorage_setFlag (s : State) (f : Flag) (b : Bool) : SameStorage s (s.setFlag f b) := by
  refine ⟨?_, ?_, ?_, ?_, ?_⟩ <;> simp
@[simp] theorem locate_setFlag (s : State) (f : Flag) (b : Bool) (a : Word) : locate (s.setFlag f b) a = locate s a :=
  (sameStorage_setFlag s f b).locate a
@[simp] theorem readStorage_setFlag (s : State) (f : Flag) (b : Bool) (p : Storage) :
    readStorage (s.setFlag f b) p = readStorage s p := (sameStorage_setFlag s f b).readStorage p
@[simp] theorem memRead_setFlag (s : State) (f : Flag) (b : Bool) (a : Word) :
    memRead (s.setFlag f b) a = memRead s a := (sameStorage_setFlag s f b).memRead a
theorem sameStorage_setZN (s : State) (w : Byte) : SameStorage s (s.setZN w) := by
  refine ⟨?_, ?_, ?_, ?_, ?_⟩ <;> simp
@[simp] theorem locate_setZN (s : State) (w : Byte) (a : Word) : locate (s.setZN w) a = locate s a :=
  (sameStorage_setZN s w).locate a
@[simp] theorem readStorage_setZN (s : State) (w : Byte) (p : Storage) :
    readStorage (s.setZN w) p = readStorage s p := (sameStorage_setZN s w).readStorage p
@[simp] theorem memRead_setZN (s : State) (w : Byte) (a : Word) :
    memRead (s.setZN w) a = memRead s a := (sameStorage_setZN s w).memRead a
theorem sameStorage_compare (s : State) (r m : Byte) : SameStorage s (s.compare r m) := by
  refine ⟨?_, ?_, ?_, ?_, ?_⟩ <;> simp
@[simp] theorem locate_compare (s : State) (r m : Byte) (a : Word) : locate (s.compare r m) a = locate s a :=
  (sameStorage_compare s r m).locate a
@[simp] theorem readStorage_compare (s : State) (r m : Byte) (p : Storage) :
    readStorage (s.compare r m) p = readStorage s p := (sameStorage_compare s r m).readStorage p
@[simp] theorem memRead_compare (s : State) (r m : Byte) (a : Word) :
    memRead (s.compare r m) a = memRead s a := (sameStorage_compare s r m).memRead a
theorem sameStorage_bitTest (s : State) (m : Byte) : SameStorage s (s.bitTest m) := by
  refine ⟨?_, ?_, ?_, ?_, ?_⟩ <;> simp
@[simp] theorem locate_bitTest (s : State) (m : Byte) (a : Word) : locate (s.bitTest m) a = locate s a :=
  (sameStorage_bitTest s m).locate a
@[simp] theorem readStorage_bitTest (s : State) (m : Byte) (p : Storage) :
    readStorage (s.bitTest m) p = readStorage s p := (sameStorage_bitTest s m).readStorage p
@[simp] theorem memRead_bitTest (s : State) (m : Byte) (a : Word) :
    memRead (s.bitTest m) a = memRead s a := (sameStorage_bitTest s m).memRead a
theorem sameStorage_addWithCarry (s : State) (m : Byte) : SameStorage s (s.addWithCarry m) := by
  refine ⟨?_, ?_, ?_, ?_, ?_⟩ <;> simp
@[simp] theorem locate_addWithCarry (s : State) (m : Byte) (a : Word) : locate (s.addWithCarry m) a = locate s a :=
  (sameStorage_addWithCarry s m).locate a
@[simp] theorem readStorage_addWithCarry (s : State) (m : Byte) (p : Storage) :
    readStorage (s.addWithCarry m) p = readStorage s p := (sameStorage_addWithCarry s m).readStorage p
@[simp] theorem memRead_addWithCarry (s : State) (m : Byte) (a : Word) :
    memRead (s.addWithCarry m) a = memRead s a := (sameStorage_addWithCarry s m).memRead a
theorem sameStorage_subtractWithCarry (s : State) (m : Byte) : SameStorage s (s.subtractWithCarry m) := by
  refine ⟨?_, ?_, ?_, ?_, ?_⟩ <;> simp
@[simp] theorem locate_subtractWithCarry (s : State) (m : Byte) (a : Word) : locate (s.subtractWithCarry m) a = locate s a :=
  (sameStorage_subtractWithCarry s m).locate a
@[simp] theorem readStorage_subtractWithCarry (s : State) (m : Byte) (p : Storage) :
    readStorage (s.subtractWithCarry m) p = readStorage s p := (sameStorage_subtractWithCarry s m).readStorage p
@[simp] theorem memRead_subtractWithCarry (s : State) (m : Byte) (a : Word) :
    memRead (s.subtractWithCarry m) a = memRead s a := (sameStorage_subtractWithCarry s m).memRead a

end Sys2Proof.Machine
end

