-- ==== Sys2Proof/Laws/Decode.lean ====
section
/-! SUPPORT. The decode table: each row is found by its opcode byte and by its operation and mode, its mode is one
rule R149 gives its operation (40_addressing_modes.md), and the bytes without a row are the 74 of rule R112
(30_encoding.md). -/

namespace Sys2Proof

/-- A row is the one found at its opcode byte, and its byte the one found for its operation and mode, which the
operation has. -/
def DecodeEntry.checked (e : DecodeEntry) : Bool :=
  (findEntry e.opcode == some e) && (opcodeOf e.op e.mode == some e.opcode) && e.op.modes.contains e.mode

theorem loadStoreRows_checked : loadStoreRows.all DecodeEntry.checked = true := by decide +kernel
theorem logicRows_checked : logicRows.all DecodeEntry.checked = true := by decide +kernel
theorem arithmeticRows_checked : arithmeticRows.all DecodeEntry.checked = true := by decide +kernel
theorem shiftRows_checked : shiftRows.all DecodeEntry.checked = true := by decide +kernel
theorem branchRows_checked : branchRows.all DecodeEntry.checked = true := by decide +kernel
theorem jumpRows_checked : jumpRows.all DecodeEntry.checked = true := by decide +kernel
theorem stackFlagRows_checked : stackFlagRows.all DecodeEntry.checked = true := by decide +kernel
theorem systemRows_checked : systemRows.all DecodeEntry.checked = true := by decide +kernel
theorem undocumentedRows_checked : undocumentedRows.all DecodeEntry.checked = true := by decide +kernel

theorem checked_of_mem {e : DecodeEntry} (h : e ∈ decodeTable) : e.checked = true := by
  simp only [decodeTable, List.mem_append] at h
  rcases h with (((((((h | h) | h) | h) | h) | h) | h) | h) | h
  · exact List.all_eq_true.mp loadStoreRows_checked e h
  · exact List.all_eq_true.mp logicRows_checked e h
  · exact List.all_eq_true.mp arithmeticRows_checked e h
  · exact List.all_eq_true.mp shiftRows_checked e h
  · exact List.all_eq_true.mp branchRows_checked e h
  · exact List.all_eq_true.mp jumpRows_checked e h
  · exact List.all_eq_true.mp stackFlagRows_checked e h
  · exact List.all_eq_true.mp systemRows_checked e h
  · exact List.all_eq_true.mp undocumentedRows_checked e h

/-- What finding a row at a byte says about it. -/
theorem findEntry_some {b : Byte} {e : DecodeEntry} (h : findEntry b = some e) :
    e ∈ decodeTable ∧ e.opcode = b ∧ opcodeOf e.op e.mode = some b ∧ e.mode ∈ e.op.modes := by
  have hm := List.mem_of_find?_eq_some h
  have hb := BitVec.eq_of_toNat_eq (Nat.eq_of_beq_eq_true
    (List.find?_some (p := fun e : DecodeEntry => Nat.beq e.opcode.toNat b.toNat) h))
  have hc := checked_of_mem hm
  simp only [DecodeEntry.checked, Bool.and_eq_true, beq_iff_eq, List.contains_iff_mem] at hc
  exact ⟨hm, hb, hb ▸ hc.1.2, hc.2⟩

/-- Each operation and mode of the table has its own byte: finding the byte finds the row. -/
theorem findEntry_opcodeOf {o : Op} {m : Mode} {b : Byte} (h : opcodeOf o m = some b) :
    ∃ e, findEntry b = some e ∧ e.op = o ∧ e.mode = m := by
  unfold opcodeOf at h
  obtain ⟨e, he, hb⟩ := Option.map_eq_some_iff.mp h
  have hc := checked_of_mem (List.mem_of_find?_eq_some he)
  have hp := List.find?_some he
  simp only [DecodeEntry.checked, Bool.and_eq_true, beq_iff_eq, hb] at hc hp
  exact ⟨e, hc.1.1, hp.1, hp.2⟩

/-- Every mode rule R149 gives an operation has a row. -/
theorem opcodeOf_isSome (o : Op) : o.modes.all (fun m => (opcodeOf o m).isSome) = true := by
  cases o <;> decide +kernel

theorem undefinedBytes_checked : undefinedBytes.all (fun b => (findEntry b).isNone) = true := by decide +kernel

/-- The bytes below a bound that have a row or are among the 74. -/
def coveredBelow : Nat → Bool
  | 0 => true
  | n + 1 => ((findEntry (BitVec.ofNat 8 n)).isSome || undefinedBytes.contains (BitVec.ofNat 8 n)) && coveredBelow n

theorem coveredBelow_256 : coveredBelow 256 = true := by decide +kernel

theorem covered_of_lt {n k : Nat} (h : coveredBelow n = true) (hk : k < n) :
    ((findEntry (BitVec.ofNat 8 k)).isSome || undefinedBytes.contains (BitVec.ofNat 8 k)) = true := by
  induction n with
  | zero => omega
  | succ n ih =>
    simp only [coveredBelow, Bool.and_eq_true] at h
    rcases Nat.lt_succ_iff_lt_or_eq.mp hk with hk | rfl
    · exact ih h.2 hk
    · exact h.1

/-- A byte has no row exactly when it is one of the 74. -/
theorem findEntry_none_iff (b : Byte) : findEntry b = none ↔ b ∈ undefinedBytes := by
  constructor
  · intro h
    have hc := covered_of_lt coveredBelow_256 b.isLt
    rw [BitVec.ofNat_toNat, BitVec.setWidth_eq, h] at hc
    simpa using hc
  · intro h
    simpa using List.all_eq_true.mp undefinedBytes_checked b h

end Sys2Proof
end

