-- ==== Sys2Proof/Laws/Frame.lean ====
section
/-! SUPPORT. Frames: how the stores between two states compose, and the storage a state update leaves alone. -/

namespace Sys2Proof.Machine

theorem SameStorage.sameStorage {s t : State} (h : SameStorage s t) (a b : Word) :
    sameStorage t a b = sameStorage s a b := by
  unfold Machine.sameStorage
  rw [h.locate, h.locate]

/-- A store changes no translation, so it moves no address to other storage. -/
@[simp] theorem sameStorage_memWrite (s : State) (a b c : Word) (v : Byte) :
    sameStorage (memWrite s a v) b c = sameStorage s b c := by
  simp [Machine.sameStorage]

theorem memRead_memWrite_sameStorage (s : State) (a b : Word) (v : Byte) :
    memRead (memWrite s a v) b = if sameStorage s b a then v else memRead s b := by
  rw [memRead_memWrite]
  by_cases h : Machine.locate s b = Machine.locate s a <;> simp [Machine.sameStorage, h]

theorem geometry_memWrite (s : State) (a : Word) (v : Byte) : geometry (memWrite s a v) = geometry s := by
  unfold memWrite geometry
  cases Machine.locate s a <;> simp [writeStorage, Function.comp_def]

theorem chr_memWrite (s : State) (a : Word) (v : Byte) :
    (memWrite s a v).cart.map Cartridge.chr = s.cart.map Cartridge.chr := by
  unfold memWrite
  cases Machine.locate s a <;> simp [writeStorage, Function.comp_def]

/-- States with the same storage: no store between them. -/
theorem storesExactly_nil {s t : State} (h : SameStorage s t) : StoresExactly [] s t :=
  ⟨fun a => h.memRead a, fun p _ => h.readStorage p, by rw [h.2.2.1]⟩

/-- One store through the bus. -/
theorem storesExactly_memWrite (s : State) (a : Word) (v : Byte) :
    StoresExactly [(a, v)] s (memWrite s a v) := by
  refine ⟨fun b => memRead_memWrite_sameStorage s a b v, fun p hp => ?_, chr_memWrite s a v⟩
  unfold memWrite
  rw [readStorage_writeStorage s _ _ v fun off h hc => locate_ne_prg hc a off h]
  simp [hp (a, v) (by simp)]

theorem sameStorage_of_locate {s t : State} (hl : ∀ a, locate t a = locate s a) (a b : Word) :
    sameStorage t a b = sameStorage s a b := by
  unfold Machine.sameStorage
  rw [hl, hl]

/-- Stores after stores, with no change of translation between them. -/
theorem StoresExactly.trans {s t u : State} {xs ys : List (Word × Byte)} (h1 : StoresExactly xs s t)
    (h2 : StoresExactly ys t u) (hl : ∀ a, locate t a = locate s a) : StoresExactly (ys ++ xs) s u := by
  refine ⟨fun a => ?_, fun p hp => ?_, h2.2.2.trans h1.2.2⟩
  · rw [h2.1 a]
    clear h2
    induction ys with
    | nil => exact h1.1 a
    | cons w rest ih =>
      simp only [readAfterStores, List.cons_append, sameStorage_of_locate hl, ih]
  · rw [h2.2.1 p, h1.2.1 p]
    · exact fun w hw => hp w (List.mem_append_right _ hw)
    · intro w hw
      rw [hl]
      exact hp w (List.mem_append_left _ hw)

/-- Stores seen from a state with the same storage. -/
theorem StoresExactly.of_same {s t u : State} {xs : List (Word × Byte)} (h : SameStorage s t)
    (h2 : StoresExactly xs t u) : StoresExactly xs s u := by
  simpa using (storesExactly_nil h).trans h2 h.locate

/-- Stores followed by an update that touches no storage. -/
theorem StoresExactly.to_same {s t u : State} {xs : List (Word × Byte)} (h1 : StoresExactly xs s t)
    (h : SameStorage t u) : StoresExactly xs s u :=
  ⟨fun a => (h.memRead a).trans (h1.1 a), fun p hp => (h.readStorage p).trans (h1.2.1 p hp), by
    rw [h.2.2.1, h1.2.2]⟩

/-- What an operation leaves alone, from the state the dispatch leaves to the state after it. -/
structure Leaves (regs : List Reg) (flags : List Flag) (stores : List (Word × Byte)) (s t : State) : Prop where
  pc : t.pc = s.pc
  cyc : t.cyc = s.cyc
  ea : t.ea = s.ea
  rel : t.rel = s.rel
  fetched : t.fetched = s.fetched
  ticks : t.ticks = s.ticks
  params : t.params = s.params
  schedule : t.schedule = s.schedule
  geometry : geometry t = geometry s
  registers : KeepsRegisters regs s t
  flags : KeepsFlags flags s t
  u : t.flag .u = s.flag .u
  stores : StoresExactly stores s t

/-- An operation that writes registers and flags only. -/
theorem Leaves.of_registers {regs : List Reg} {flags : List Flag} {s t : State} (h : SameStorage s t)
    (hpc : t.pc = s.pc) (hcyc : t.cyc = s.cyc) (hea : t.ea = s.ea) (hrel : t.rel = s.rel)
    (hfetched : t.fetched = s.fetched) (hticks : t.ticks = s.ticks) (hschedule : t.schedule = s.schedule)
    (hr : KeepsRegisters regs s t) (hf : KeepsFlags flags s t) (hu : t.flag .u = s.flag .u) :
    Leaves regs flags [] s t :=
  ⟨hpc, hcyc, hea, hrel, hfetched, hticks, h.2.2.2.2, hschedule, by simp [Machine.geometry, h.2.2.1], hr, hf, hu,
    storesExactly_nil h⟩

/-- An operation that stores one byte and writes registers and flags besides. -/
theorem Leaves.of_store {regs : List Reg} {flags : List Flag} {s t : State} {a : Word} {v : Byte}
    (h : SameStorage (memWrite s a v) t) (hpc : t.pc = s.pc) (hcyc : t.cyc = s.cyc) (hea : t.ea = s.ea)
    (hrel : t.rel = s.rel) (hfetched : t.fetched = s.fetched) (hticks : t.ticks = s.ticks)
    (hschedule : t.schedule = s.schedule) (hr : KeepsRegisters regs s t) (hf : KeepsFlags flags s t)
    (hu : t.flag .u = s.flag .u) : Leaves regs flags [(a, v)] s t := by
  have hg := geometry_memWrite s a v
  exact ⟨hpc, hcyc, hea, hrel, hfetched, hticks, by simp [h.2.2.2.2], hschedule,
    by simpa [Machine.geometry, h.2.2.1] using hg, hr, hf, hu, (storesExactly_memWrite s a v).to_same h⟩

end Sys2Proof.Machine
end

