-- ==== Sys2Proof/Laws/Dispatch.lean ====
section
/-! SUPPORT. The dispatch sequence: the state an operation finds, and the frame of an instruction from that of its
operation. -/

namespace Sys2Proof.Machine

section
variable (s : State) (base : Nat)
@[simp] theorem beginDispatch_a : (beginDispatch s base).a = s.a := rfl
@[simp] theorem beginDispatch_x : (beginDispatch s base).x = s.x := rfl
@[simp] theorem beginDispatch_y : (beginDispatch s base).y = s.y := rfl
@[simp] theorem beginDispatch_pc : (beginDispatch s base).pc = s.pc + 1 := rfl
@[simp] theorem beginDispatch_ea : (beginDispatch s base).ea = s.ea := rfl
theorem beginDispatch_storage : SameStorage s (beginDispatch s base) := ⟨rfl, rfl, rfl, rfl, rfl⟩
theorem atOperands_storage : SameStorage s (atOperands s) := ⟨rfl, rfl, rfl, rfl, rfl⟩
@[simp] theorem memRead_beginDispatch (a : Word) : memRead (beginDispatch s base) a = memRead s a :=
  (beginDispatch_storage s base).memRead a
@[simp] theorem memRead_atOperands (a : Word) : memRead (atOperands s) a = memRead s a :=
  (atOperands_storage s).memRead a
@[simp] theorem atOperands_x : (atOperands s).x = s.x := rfl
@[simp] theorem atOperands_y : (atOperands s).y = s.y := rfl
@[simp] theorem atOperands_pc : (atOperands s).pc = s.pc + 1 := rfl
@[simp] theorem atOperands_ea : (atOperands s).ea = s.ea := rfl
end

/-- The effective address and the crossing report read PC, X, Y, `EA` and memory only. -/
theorem effectiveAddress_congr {s t : State} (hpc : t.pc = s.pc) (hx : t.x = s.x) (hy : t.y = s.y)
    (hea : t.ea = s.ea) (hm : ∀ a, memRead t a = memRead s a) (m : Operand) :
    effectiveAddress t m = effectiveAddress s m := by
  cases m <;> simp [effectiveAddress, indirectPointer, zeroPagePointer, hpc, hx, hy, hea, hm]

theorem baseAddress_congr {s t : State} (hm : ∀ a, memRead t a = memRead s a) (m : Operand) :
    baseAddress t m = baseAddress s m := by
  cases m <;> simp [baseAddress, zeroPagePointer, hm]

theorem effectiveAddress_beginDispatch (s : State) (base : Nat) (m : Operand) :
    effectiveAddress (beginDispatch s base) m = targetAddress s m :=
  effectiveAddress_congr rfl rfl rfl rfl (fun a => by simp) m

theorem crossesPage_beginDispatch (s : State) (base : Nat) (m : Operand) :
    crossesPage (beginDispatch s base) m = crossesPage (atOperands s) m := by
  have he := effectiveAddress_beginDispatch s base m
  have hb := baseAddress_congr (s := atOperands s) (t := beginDispatch s base) (fun a => by simp) m
  unfold targetAddress at he
  cases m <;> simp only [crossesPage, he, hb]

section
variable (s : State) (base : Nat) (m : Operand)
@[simp] theorem dispatched_a : (dispatched s base m).a = s.a := by
  cases m <;> simp [dispatched, resolve, beginDispatch]
@[simp] theorem dispatched_x : (dispatched s base m).x = s.x := by
  cases m <;> simp [dispatched, resolve, beginDispatch]
@[simp] theorem dispatched_y : (dispatched s base m).y = s.y := by
  cases m <;> simp [dispatched, resolve, beginDispatch]
@[simp] theorem dispatched_sp : (dispatched s base m).sp = s.sp := by
  cases m <;> simp [dispatched, resolve, beginDispatch]
@[simp] theorem dispatched_cyc : (dispatched s base m).cyc = base := by
  cases m <;> simp [dispatched, resolve, beginDispatch]
@[simp] theorem dispatched_ticks : (dispatched s base m).ticks = s.ticks := by
  cases m <;> simp [dispatched, resolve, beginDispatch]
@[simp] theorem dispatched_params : (dispatched s base m).params = s.params := by
  cases m <;> simp [dispatched, resolve, beginDispatch]
@[simp] theorem dispatched_schedule : (dispatched s base m).schedule = s.schedule := by
  cases m <;> simp [dispatched, resolve, beginDispatch]
@[simp] theorem dispatched_ram : (dispatched s base m).ram = s.ram := by
  cases m <;> simp [dispatched, resolve, beginDispatch]
@[simp] theorem dispatched_ppureg : (dispatched s base m).ppureg = s.ppureg := by
  cases m <;> simp [dispatched, resolve, beginDispatch]
@[simp] theorem dispatched_back : (dispatched s base m).back = s.back := by
  cases m <;> simp [dispatched, resolve, beginDispatch]
@[simp] theorem dispatched_cart : (dispatched s base m).cart = s.cart := by
  cases m <;> simp [dispatched, resolve, beginDispatch]
theorem dispatched_p : (dispatched s base m).p = withFlag s.p .u true := by
  cases m <;> simp [dispatched, resolve, beginDispatch, State.setFlag]
@[simp] theorem dispatched_pc : (dispatched s base m).pc = followingPc s m := by
  cases m
  case imp => exact (BitVec.add_zero (s.pc + 1)).symm
  all_goals rfl
@[simp] theorem flag_dispatched (f : Flag) :
    (dispatched s base m).flag f = if f = .u then true else s.flag f := by
  unfold State.flag
  rw [dispatched_p, getFlag_withFlag]
theorem dispatched_storage : SameStorage s (dispatched s base m) :=
  ⟨dispatched_ram s base m, dispatched_ppureg s base m, dispatched_cart s base m, dispatched_back s base m,
    dispatched_params s base m⟩
@[simp] theorem memRead_dispatched (a : Word) : memRead (dispatched s base m) a = memRead s a :=
  (dispatched_storage s base m).memRead a
@[simp] theorem locate_dispatched (a : Word) : locate (dispatched s base m) a = locate s a :=
  (dispatched_storage s base m).locate a
@[simp] theorem geometry_dispatched : geometry (dispatched s base m) = geometry s := by
  simp [geometry]

/-- `EA` as an operation finds it. -/
@[simp] theorem dispatched_ea : (dispatched s base m).ea = targetAddress s m := by
  have h := effectiveAddress_beginDispatch s base m
  cases m
  case imp => exact h
  case rel => exact h
  all_goals exact h

theorem dispatched_rel (h : ∀ b1, m ≠ .rel b1) : (dispatched s base m).rel = s.rel := by
  cases m
  case rel b1 => exact absurd rfl (h b1)
  all_goals simp [dispatched, resolve, beginDispatch]

theorem dispatched_fetched (h : m ≠ .imp) : (dispatched s base m).fetched = s.fetched := by
  cases m
  case imp => exact absurd rfl h
  all_goals simp [dispatched, resolve, beginDispatch]

theorem latchesShow_dispatched : LatchesShow s m (dispatched s base m) := by
  have he := dispatched_ea s base m
  have hr := dispatched_rel s base m
  have hf := dispatched_fetched s base m
  cases m
  case imp => exact ⟨he, hr (by simp), rfl⟩
  case rel b1 =>
    exact ⟨he, BitVec.toInt_signExtend_of_le (by decide), hf (by simp)⟩
  all_goals
    simp only [LatchesShow]
    exact ⟨he, hr (by simp), hf (by simp)⟩

/-- The operand as an operation reads it. -/
theorem operandValue_dispatched : operandValue (dispatched s base m) m = sourceOperand s m := by
  cases m <;> simp [operandValue, sourceOperand]
end

/-- The dispatch effects of an instruction whose operation leaves the latches, CYC and the environment alone and adds
`extra` cycles. -/
theorem dispatchEffects_runEntry {s : State} {o : Op} {m : Operand} {f : State → State × Nat} {t : State} {extra : Nat}
    (hf : f (dispatched s (baseCycles s.params o m.mode) m) = (t, extra))
    (hcyc : t.cyc = (dispatched s (baseCycles s.params o m.mode) m).cyc)
    (hea : t.ea = (dispatched s (baseCycles s.params o m.mode) m).ea)
    (hrel : t.rel = (dispatched s (baseCycles s.params o m.mode) m).rel)
    (hfetched : t.fetched = (dispatched s (baseCycles s.params o m.mode) m).fetched)
    (hticks : t.ticks = s.ticks) (hparams : t.params = s.params) (hschedule : t.schedule = s.schedule)
    (hgeometry : geometry t = geometry s) :
    DispatchEffects s o m extra
      (runEntry s (baseCycles s.params o m.mode) (requestsPageCycle o) m f) := by
  have hl := latchesShow_dispatched s (baseCycles s.params o m.mode) m
  unfold runEntry
  rw [hf]
  refine ⟨?_, ?_, hticks, hparams, hschedule, hgeometry⟩
  · cases m <;> simp only [LatchesShow, State.setCyc_ea, State.setCyc_rel, State.setCyc_fetched, hea, hrel, hfetched]
      at hl ⊢ <;> exact hl
  · simp [hcyc, crossesPage_beginDispatch, pageCycle]

/-- The frame of an instruction from what its operation leaves alone. -/
theorem Leaves.runsOn {s : State} {o : Op} {m : Operand} {f : State → State} {regs : List Reg} {flags : List Flag}
    {stores : List (Word × Byte)}
    (h : Leaves regs flags stores (dispatched s (baseCycles s.params o m.mode) m)
      (f (dispatched s (baseCycles s.params o m.mode) m))) :
    RunsOn s o m regs flags stores
      (runEntry s (baseCycles s.params o m.mode) (requestsPageCycle o) m fun t => (f t, 0)) := by
  have hs := dispatched_storage s (baseCycles s.params o m.mode) m
  refine ⟨dispatchEffects_runEntry rfl h.cyc h.ea h.rel h.fetched (by simpa using h.ticks) (by simpa using h.params)
    (by simpa using h.schedule) (by simpa using h.geometry), by simpa [runEntry] using h.pc, fun r hr => ?_,
    fun g hg hu => ?_, by simpa [runEntry] using h.u, ?_⟩
  · have := h.registers r hr
    cases r <;> simpa [runEntry, State.reg] using this
  · have := h.flags g hg hu
    simpa [runEntry, hu] using this
  · exact (h.stores.of_same hs).to_same ⟨rfl, rfl, rfl, rfl, rfl⟩

/-- Everything an instruction that adds no cycles of its own does: it completes, its frame is that of its operation on
the state the dispatch leaves, and it shows the registers and flags the operation leaves. -/
theorem perform_spec (s : State) (o : Op) (m : Operand) (f : State → State) {regs : List Reg} {flags : List Flag}
    {stores : List (Word × Byte)}
    (h : ∀ d, d = dispatched s (baseCycles s.params o m.mode) m → Leaves regs flags stores d (f d)) :
    ∃ d t, d = dispatched s (baseCycles s.params o m.mode) m ∧ perform s o m f = .next t ∧
      RunsOn s o m regs flags stores t ∧ (∀ r, t.reg r = (f d).reg r) ∧ (∀ g, t.flag g = (f d).flag g) :=
  ⟨_, _, rfl, rfl, (h _ rfl).runsOn, fun r => by cases r <;> rfl, fun _ => rfl⟩

end Sys2Proof.Machine
end

