-- ==== Sys2Proof/Laws/PerInstr.lean ====
section
/-! SUPPORT. Statements made per instruction. `Rebuild`: the operation, the addressing mode and the operand bytes of an
instruction determine it. -/

namespace Sys2Proof.Laws.Rebuild

/-- An instruction with an operation is the one built from its operation, mode and operand bytes; an undefined byte is
its own opcode byte. -/
def Statement (i : Instr) : Prop :=
  match i.op with
  | some o => Instr.build o i.operand.mode (i.operand.bytes.getD 0 0) (i.operand.bytes.getD 1 0) = i
  | none => i.opcode.map Instr.undefined = some i

/-- An operand form is the one of its mode and bytes. -/
theorem ofBytes_bytes (m : Operand) : Operand.ofBytes m.mode (m.bytes.getD 0 0) (m.bytes.getD 1 0) = m := by
  cases m <;> rfl

theorem lda (m : Operand) : Statement (.lda m) := congrArg Instr.lda (ofBytes_bytes m)
theorem ldx (m : Operand) : Statement (.ldx m) := congrArg Instr.ldx (ofBytes_bytes m)
theorem ldy (m : Operand) : Statement (.ldy m) := congrArg Instr.ldy (ofBytes_bytes m)
theorem sta (m : Operand) : Statement (.sta m) := congrArg Instr.sta (ofBytes_bytes m)
theorem stx (m : Operand) : Statement (.stx m) := congrArg Instr.stx (ofBytes_bytes m)
theorem sty (m : Operand) : Statement (.sty m) := congrArg Instr.sty (ofBytes_bytes m)
theorem tax : Statement .tax := rfl
theorem tay : Statement .tay := rfl
theorem txa : Statement .txa := rfl
theorem tya : Statement .tya := rfl
theorem tsx : Statement .tsx := rfl
theorem txs : Statement .txs := rfl
theorem and (m : Operand) : Statement (.and m) := congrArg Instr.and (ofBytes_bytes m)
theorem ora (m : Operand) : Statement (.ora m) := congrArg Instr.ora (ofBytes_bytes m)
theorem eor (m : Operand) : Statement (.eor m) := congrArg Instr.eor (ofBytes_bytes m)
theorem bit (m : Operand) : Statement (.bit m) := congrArg Instr.bit (ofBytes_bytes m)
theorem adc (m : Operand) : Statement (.adc m) := congrArg Instr.adc (ofBytes_bytes m)
theorem sbc (m : Operand) : Statement (.sbc m) := congrArg Instr.sbc (ofBytes_bytes m)
theorem cmp (m : Operand) : Statement (.cmp m) := congrArg Instr.cmp (ofBytes_bytes m)
theorem cpx (m : Operand) : Statement (.cpx m) := congrArg Instr.cpx (ofBytes_bytes m)
theorem cpy (m : Operand) : Statement (.cpy m) := congrArg Instr.cpy (ofBytes_bytes m)
theorem inc (m : Operand) : Statement (.inc m) := congrArg Instr.inc (ofBytes_bytes m)
theorem dec (m : Operand) : Statement (.dec m) := congrArg Instr.dec (ofBytes_bytes m)
theorem inx : Statement .inx := rfl
theorem iny : Statement .iny := rfl
theorem dex : Statement .dex := rfl
theorem dey : Statement .dey := rfl
theorem asl (m : Operand) : Statement (.asl m) := congrArg Instr.asl (ofBytes_bytes m)
theorem lsr (m : Operand) : Statement (.lsr m) := congrArg Instr.lsr (ofBytes_bytes m)
theorem rol (m : Operand) : Statement (.rol m) := congrArg Instr.rol (ofBytes_bytes m)
theorem ror (m : Operand) : Statement (.ror m) := congrArg Instr.ror (ofBytes_bytes m)
theorem bcc (off : Byte) : Statement (.bcc off) := rfl
theorem bcs (off : Byte) : Statement (.bcs off) := rfl
theorem beq (off : Byte) : Statement (.beq off) := rfl
theorem bne (off : Byte) : Statement (.bne off) := rfl
theorem bmi (off : Byte) : Statement (.bmi off) := rfl
theorem bpl (off : Byte) : Statement (.bpl off) := rfl
theorem bvc (off : Byte) : Statement (.bvc off) := rfl
theorem bvs (off : Byte) : Statement (.bvs off) := rfl
theorem jmp (m : Operand) : Statement (.jmp m) := congrArg Instr.jmp (ofBytes_bytes m)
theorem jsr (lo hi : Byte) : Statement (.jsr lo hi) := rfl
theorem rts : Statement .rts := rfl
theorem pha : Statement .pha := rfl
theorem pla : Statement .pla := rfl
theorem php : Statement .php := rfl
theorem plp : Statement .plp := rfl
theorem clc : Statement .clc := rfl
theorem sec : Statement .sec := rfl
theorem cli : Statement .cli := rfl
theorem sei : Statement .sei := rfl
theorem cld : Statement .cld := rfl
theorem sed : Statement .sed := rfl
theorem clv : Statement .clv := rfl
theorem brk : Statement .brk := rfl
theorem rti : Statement .rti := rfl
theorem nop : Statement .nop := rfl
theorem lax (m : Operand) : Statement (.lax m) := congrArg Instr.lax (ofBytes_bytes m)
theorem sax (m : Operand) : Statement (.sax m) := congrArg Instr.sax (ofBytes_bytes m)
theorem dcp (m : Operand) : Statement (.dcp m) := congrArg Instr.dcp (ofBytes_bytes m)
theorem isb (m : Operand) : Statement (.isb m) := congrArg Instr.isb (ofBytes_bytes m)
theorem slo (m : Operand) : Statement (.slo m) := congrArg Instr.slo (ofBytes_bytes m)
theorem undefined (b : Byte) : Statement (.undefined b) := rfl

end Sys2Proof.Laws.Rebuild
end

