-- ==== Sys2Proof/Laws/Stack.lean ====
section
/-! SUPPORT. The stack: every stack location is a RAM byte of its own, a byte pushed is popped again, and what pushes
and pops, entering a handler and returning from one leave alone. -/

namespace Sys2Proof.Machine

theorem word_toNat (hi lo : Byte) : (word hi lo).toNat = 256 * hi.toNat + lo.toNat := by
  unfold word
  rw [BitVec.toNat_append, ← Nat.shiftLeft_add_eq_or_of_lt lo.isLt]
  omega

theorem hiByte_toNat (w : Word) : (hiByte w).toNat = w.toNat / 256 := by
  have := w.isLt
  simp [hiByte, BitVec.extractLsb'_toNat, Nat.shiftRight_eq_div_pow]
  omega

theorem loByte_toNat (w : Word) : (loByte w).toNat = w.toNat % 256 := by
  simp [loByte, BitVec.extractLsb'_toNat]

theorem word_hiByte_loByte (w : Word) : word (hiByte w) (loByte w) = w := by
  apply BitVec.eq_of_toNat_eq
  rw [word_toNat, hiByte_toNat, loByte_toNat]
  omega

theorem memRead16_toNat (s : State) (a : Word) :
    (memRead16 s a).toNat = 256 * (memRead s (a + 1)).toNat + (memRead s a).toNat := word_toNat _ _

theorem stackAddress_eq (s : State) : stackAddress s = stackSlot s.sp := by
  apply BitVec.eq_of_toNat_eq
  have := s.sp.isLt
  simp [stackAddress, stackSlot, zext16, BitVec.toNat_setWidth]

theorem cpuMap_low (c : Cartridge) {a : Word} (h : a.toNat < 0x8000) : cpuMap c a = none := by
  unfold cpuMap
  have : ¬ (0x8000 : Word) ≤ a := by rw [BitVec.le_def]; simpa using h
  rw [if_neg this]
  split <;> rfl

/-- Every address up to 0x1FFF reaches RAM, whatever cartridge is attached. -/
theorem locate_ram (s : State) {a : Word} (h : a.toNat ≤ 0x1FFF) : locate s a = .ram (a.toNat % 2048) := by
  have hle : a ≤ (0x1FFF : Word) := by rw [BitVec.le_def]; simpa using h
  have hm : (a &&& 0x07FF).toNat = a.toNat % 2048 := by
    rw [BitVec.toNat_and]
    exact Nat.and_two_pow_sub_one_eq_mod a.toNat 11
  have hc : (s.cart.bind fun c => cpuMap c a) = none := by
    cases s.cart with
    | none => rfl
    | some c => exact cpuMap_low c (by omega)
  unfold locate
  rw [hc]
  simp only [if_pos hle, hm]

theorem stackSlot_toNat (sp : Byte) : (stackSlot sp).toNat = 0x100 + sp.toNat := by
  have := sp.isLt
  unfold stackSlot
  rw [BitVec.toNat_ofNat]
  omega

theorem locate_stackSlot (s : State) (sp : Byte) : locate s (stackSlot sp) = .ram (0x100 + sp.toNat) := by
  have := sp.isLt
  rw [locate_ram s (by rw [stackSlot_toNat]; omega), stackSlot_toNat]
  congr 1
  omega

/-- Two stack locations are one storage byte only for the same stack pointer. -/
theorem sameStorage_stackSlot (s : State) (p q : Byte) :
    sameStorage s (stackSlot p) (stackSlot q) = decide (p = q) := by
  have h : (0x100 + p.toNat = 0x100 + q.toNat) ↔ p = q := by
    rw [BitVec.toNat_eq]
    omega
  simp [sameStorage, locate_stackSlot, ← BitVec.toNat_inj]

section
variable (s : State) (v : Byte)
theorem push_eq : push s v = (memWrite s (stackSlot s.sp) v).setSp (s.sp - 1) := by
  simp [push, stackAddress_eq]
@[simp] theorem push_a : (push s v).a = s.a := by simp [push]
@[simp] theorem push_x : (push s v).x = s.x := by simp [push]
@[simp] theorem push_y : (push s v).y = s.y := by simp [push]
@[simp] theorem push_sp : (push s v).sp = s.sp - 1 := by simp [push]
@[simp] theorem push_p : (push s v).p = s.p := by simp [push]
@[simp] theorem push_pc : (push s v).pc = s.pc := by simp [push]
@[simp] theorem push_cyc : (push s v).cyc = s.cyc := by simp [push]
@[simp] theorem push_ea : (push s v).ea = s.ea := by simp [push]
@[simp] theorem push_rel : (push s v).rel = s.rel := by simp [push]
@[simp] theorem push_fetched : (push s v).fetched = s.fetched := by simp [push]
@[simp] theorem push_ticks : (push s v).ticks = s.ticks := by simp [push]
@[simp] theorem push_params : (push s v).params = s.params := by simp [push]
@[simp] theorem push_schedule : (push s v).schedule = s.schedule := by simp [push]
@[simp] theorem flag_push (f : Flag) : (push s v).flag f = s.flag f := by simp [State.flag]
@[simp] theorem locate_push (a : Word) : locate (push s v) a = locate s a := by simp [push]
@[simp] theorem sameStorage_push (a b : Word) : sameStorage (push s v) a b = sameStorage s a b :=
  sameStorage_of_locate (locate_push s v) a b
@[simp] theorem geometry_push : geometry (push s v) = geometry s := by
  rw [push_eq]
  exact geometry_memWrite s _ v
theorem memRead_push (a : Word) :
    memRead (push s v) a = if sameStorage s a (stackSlot s.sp) then v else memRead s a := by
  rw [push_eq]
  simp [memRead_memWrite_sameStorage]
/-- A push stores one byte, at the stack location of SP. -/
theorem storesExactly_push : StoresExactly [(stackSlot s.sp, v)] s (push s v) := by
  rw [push_eq]
  exact (storesExactly_memWrite s _ v).to_same ⟨rfl, rfl, rfl, rfl, rfl⟩

/-- A pop reads the stack location above SP and stores nothing. -/
theorem pop_eq : pop s = (memRead s (stackSlot (s.sp + 1)), s.setSp (s.sp + 1)) := by
  simp [pop, stackAddress_eq]
theorem pop16_eq : pop16 s =
    (word (memRead s (stackSlot (s.sp + 2))) (memRead s (stackSlot (s.sp + 1))), s.setSp (s.sp + 2)) := by
  have h : s.sp + 1#8 + 1#8 = s.sp + 2#8 := by rw [BitVec.add_assoc]; rfl
  simp only [pop16, pop_eq, State.setSp_sp, memRead_setSp]
  simp [h, State.setSp]
end

/-- Everything `popStatus` does: P from the byte above SP with U set, and SP moved up by one. -/
theorem popStatus_eq (s : State) :
    popStatus s = (s.setSp (s.sp + 1)).setP (memRead s (stackSlot (s.sp + 1)) ||| 0x20) := by
  simp only [popStatus, pop_eq]

/-- Everything `returnFromHandler` does: status, then PC, popped, and SP moved up by three; nothing is stored. -/
theorem returnFromHandler_eq (s : State) : returnFromHandler s =
    ((s.setSp (s.sp + 3)).setP (memRead s (stackSlot (s.sp + 1)) ||| 0x20)).setPc
      (word (memRead s (stackSlot (s.sp + 3))) (memRead s (stackSlot (s.sp + 2)))) := by
  have h2 : s.sp + 1 + 1 = s.sp + 2 := by rw [BitVec.add_assoc]; rfl
  have h3 : s.sp + 1 + 2 = s.sp + 3 := by rw [BitVec.add_assoc]; rfl
  unfold returnFromHandler
  rw [popStatus_eq, pop16_eq]
  simp only [State.setP_sp, State.setSp_sp, memRead_setP, memRead_setSp, h2, h3]
  rfl

/-- The bytes of a 16-bit push: the high byte at SP, the low byte below it. -/
theorem storesExactly_push16 (s : State) (v : Word) :
    StoresExactly [(stackSlot (s.sp - 1), loByte v), (stackSlot s.sp, hiByte v)] s (push16 s v) := by
  have h := (storesExactly_push s (hiByte v)).trans (storesExactly_push (push s (hiByte v)) (loByte v))
    (locate_push s (hiByte v))
  simpa [push16] using h

/-- Everything `enterHandler` does: three bytes pushed, B cleared and I set, PC from the vector; U is set. -/
theorem enterHandler_spec (s : State) (vector : Word) (brk : Bool) :
    let t := enterHandler s vector brk
    t.sp = s.sp - 3 ∧ t.pc = memRead16 t vector ∧
    (∀ f, t.flag f = if f = .i then true else if f = .b then false else if f = .u then true else s.flag f) ∧
    StoresExactly [(stackSlot (s.sp - 2), withFlag (withFlag s.p .b brk) .u true), (stackSlot (s.sp - 1), loByte s.pc),
      (stackSlot s.sp, hiByte s.pc)] s t ∧
    t.a = s.a ∧ t.x = s.x ∧ t.y = s.y ∧ t.cyc = s.cyc ∧ t.ea = s.ea ∧ t.rel = s.rel ∧ t.fetched = s.fetched ∧
    t.ticks = s.ticks ∧ t.params = s.params ∧ t.schedule = s.schedule ∧ geometry t = geometry s ∧
    (∀ a, locate t a = locate s a) := by
  intro t
  have h2 : s.sp - 1#8 - 1#8 = s.sp - 2#8 := by rw [BitVec.sub_sub]; rfl
  have h3 : s.sp - 2#8 - 1#8 = s.sp - 3#8 := by rw [BitVec.sub_sub]; rfl
  have hs : StoresExactly [(stackSlot (s.sp - 2), withFlag (withFlag s.p .b brk) .u true),
      (stackSlot (s.sp - 1), loByte s.pc), (stackSlot s.sp, hiByte s.pc)] s t := by
    have h := ((storesExactly_push16 s s.pc).to_same
      (u := ((push16 s s.pc).setFlag .b brk).setFlag .u true) ⟨rfl, rfl, rfl, rfl, rfl⟩).trans
      (storesExactly_push (((push16 s s.pc).setFlag .b brk).setFlag .u true)
        (((push16 s s.pc).setFlag .b brk).setFlag .u true).p) (fun a => by simp [push16])
    have h' := h.to_same (u := t) ⟨rfl, rfl, rfl, rfl, rfl⟩
    simpa [push16, State.setFlag, h2] using h'
  have hg : geometry t = geometry s :=
    (geometry_push (((push16 s s.pc).setFlag .b brk).setFlag .u true) _).trans
      ((geometry_push (push s (hiByte s.pc)) (loByte s.pc)).trans (geometry_push s (hiByte s.pc)))
  refine ⟨?_, ?_, fun f => ?_, hs, ?_, ?_, ?_, ?_, ?_, ?_, ?_, ?_, ?_, ?_, hg, ?_⟩
  · simp [t, enterHandler, push16, h2, h3]
  · simp [t, enterHandler, memRead16]
  · simp only [t, enterHandler, State.flag_setPc, State.flag_setFlag, flag_push, push16]
    cases f <;> simp
  all_goals simp [t, enterHandler, push16]

end Sys2Proof.Machine
end

