-- ==== Sys2Proof/Laws/Soundness.lean ====
section
/-! SUPPORT. Every memory operation keeps the storage arrays canonical and within their sizes; the storage of
`State.reset` is so. -/

namespace Sys2Proof.Machine

theorem Memory.sound_write {m : Memory} {size i : Nat} (v : Byte) (hi : i < size) (h : m.sound size = true) :
    (m.write i v).sound size = true := by
  simp only [Memory.sound, Bool.and_eq_true] at h ⊢
  exact ⟨Memory.wf_write i v h.1, Memory.within_write v hi h.2⟩

/-- The mapper's CPU side answers an offset inside PRG. -/
theorem cpuMap_lt {c : Cartridge} {a : Word} {off : Offset} (h : cpuMap c a = some off) :
    off.toNat < prgSize c.prgBanks := by
  unfold cpuMap at h
  have h3 : (a &&& 0x3FFF : Word).toNat ≤ 0x3FFF := by
    rw [BitVec.toNat_and]
    exact Nat.and_le_right
  have h7 : (a &&& 0x7FFF : Word).toNat ≤ 0x7FFF := by
    rw [BitVec.toNat_and]
    exact Nat.and_le_right
  split at h
  · cases h
  · next hs =>
    simp [Cartridge.supported] at hs
    have hb := hs.2
    split at h
    · split at h
      · next h1 =>
        obtain rfl := Option.some.inj h
        rw [BitVec.toNat_setWidth, Nat.mod_eq_of_lt (by omega), prgSize, h1]
        exact Nat.lt_of_le_of_lt h3 (by decide)
      · next h1 =>
        obtain rfl := Option.some.inj h
        rw [BitVec.toNat_setWidth, Nat.mod_eq_of_lt (by omega), prgSize]
        refine Nat.lt_of_le_of_lt h7 (Nat.lt_of_lt_of_le (by decide : 0x7FFF < 2 * Config.prgBankSize) ?_)
        exact Nat.mul_le_mul_right _ (by omega)
    · cases h

/-- Where an address can lead: an index inside its array. -/
theorem locate_bound (s : State) (a : Word) :
    match locate s a with
    | .ram i => i < Config.ramSize
    | .ppureg i => i < Config.ppuregSize
    | .prg off => ∃ c, s.cart = some c ∧ off < prgSize c.prgBanks
    | .back i => i < 65536 ∧ s.params.unclaimed = .flatBacking
    | .dropped => s.params.unclaimed = .zeroDrop := by
  have ha := a.isLt
  unfold locate
  cases hc : s.cart.bind fun c => cpuMap c a with
  | some off =>
    obtain ⟨c, hc1, hc2⟩ := Option.bind_eq_some_iff.mp hc
    exact ⟨c, hc1, cpuMap_lt hc2⟩
  | none =>
    dsimp only
    split
    · next heq =>
      split at heq
      · obtain rfl := Storage.ram.inj heq
        rw [BitVec.toNat_and]
        exact Nat.lt_of_le_of_lt Nat.and_le_right (by decide)
      · split at heq
        · cases heq
        · split at heq <;> cases heq
    · next heq =>
      split at heq
      · cases heq
      · split at heq
        · obtain rfl := Storage.ppureg.inj heq
          rw [BitVec.toNat_and]
          exact Nat.lt_of_le_of_lt Nat.and_le_right (by decide)
        · split at heq <;> cases heq
    · next heq =>
      split at heq
      · cases heq
      · split at heq
        · cases heq
        · split at heq <;> cases heq
    · next heq =>
      split at heq
      · cases heq
      · split at heq
        · cases heq
        · split at heq
          · cases heq
          · next hu =>
            obtain rfl := Storage.back.inj heq
            exact ⟨ha, hu⟩
    · next heq =>
      split at heq
      · cases heq
      · split at heq
        · cases heq
        · split at heq
          · assumption
          · cases heq

/-- A store through the bus keeps the storage sound. -/
theorem storageSound_memWrite {s : State} (a : Word) (v : Byte) (h : storageSound s = true) :
    storageSound (memWrite s a v) = true := by
  have hb := locate_bound s a
  unfold memWrite
  simp only [storageSound, Bool.and_eq_true] at h ⊢
  obtain ⟨⟨⟨⟨h1, h2⟩, h3⟩, h4⟩, h5⟩ := h
  cases hl : locate s a <;> rw [hl] at hb <;> dsimp only at hb
  case ram i => exact ⟨⟨⟨⟨Memory.sound_write v hb h1, h2⟩, h3⟩, h4⟩, h5⟩
  case ppureg i => exact ⟨⟨⟨⟨h1, Memory.sound_write v hb h2⟩, h3⟩, h4⟩, h5⟩
  case prg off =>
    obtain ⟨c, hc, hoff⟩ := hb
    refine ⟨⟨⟨⟨h1, h2⟩, h3⟩, ?_⟩, h5⟩
    rw [hc] at h4
    simp only [Option.all_some, Cartridge.sound, Bool.and_eq_true] at h4
    simp only [writeStorage, State.setCart_cart, hc, Option.map_some, Option.all_some, Cartridge.sound,
      Bool.and_eq_true]
    exact ⟨⟨h4.1.1, Memory.sound_write v hoff h4.1.2⟩, h4.2⟩
  case back i =>
    exact ⟨⟨⟨⟨h1, h2⟩, Memory.sound_write v hb.1 h3⟩, h4⟩, by simp [writeStorage, hb.2]⟩
  case dropped => exact ⟨⟨⟨⟨h1, h2⟩, h3⟩, h4⟩, h5⟩

/-- Soundness depends on the storage and the parameters alone. -/
theorem SameStorage.storageSound {s t : State} (h : SameStorage s t) (hs : storageSound s = true) :
    storageSound t = true := by
  obtain ⟨h1, h2, h3, h4, h5⟩ := h
  simpa only [Machine.storageSound, h1, h2, h3, h4, h5] using hs

theorem storageSound_push {s : State} (v : Byte) (h : storageSound s = true) : storageSound (push s v) = true := by
  rw [push_eq]
  exact SameStorage.storageSound (s := memWrite s (stackSlot s.sp) v) ⟨rfl, rfl, rfl, rfl, rfl⟩
    (storageSound_memWrite _ _ h)

theorem storageSound_enterHandler {s : State} (vector : Word) (brk : Bool) (h : storageSound s = true) :
    storageSound (enterHandler s vector brk) = true := by
  let t := ((push16 s s.pc).setFlag .b brk).setFlag .u true
  have h1 : storageSound t = true :=
    SameStorage.storageSound (s := push16 s s.pc) ⟨rfl, rfl, rfl, rfl, rfl⟩
      (storageSound_push _ (storageSound_push _ h))
  exact SameStorage.storageSound (s := push t t.p) ⟨rfl, rfl, rfl, rfl, rfl⟩ (storageSound_push _ h1)

theorem storageSound_storeBytes {s : State} (base : Word) (bytes : List Byte) (h : storageSound s = true) :
    storageSound (storeBytes s base bytes) = true := by
  induction bytes generalizing s base with
  | nil => exact h
  | cons b rest ih => exact ih _ (storageSound_memWrite base b h)

theorem Memory.sound_ofBytes (bytes : List Byte) : (Memory.ofBytes bytes).sound bytes.length = true := by
  have h := Memory.within_ofBytesFrom 0 bytes
  rw [Nat.zero_add] at h
  simp only [Memory.sound, Memory.wf_ofBytes, Bool.true_and]
  exact h

/-- An attached cartridge and its arrays are sound. -/
theorem storageSound_attachCartridge {s t : State} {c : CartridgeImage} (h : storageSound s = true)
    (ht : attachCartridge c s = .next t) : storageSound t = true := by
  unfold attachCartridge at ht
  split at ht
  · next ha =>
    obtain rfl := Host.Outcome.next.inj ht
    simp only [CartridgeImage.accepted, Bool.and_eq_true, decide_eq_true_eq] at ha
    obtain ⟨⟨⟨hm, hb⟩, hp⟩, hcr⟩ := ha
    simp only [storageSound, Bool.and_eq_true] at h ⊢
    refine ⟨⟨h.1.1, ?_⟩, h.2⟩
    have h1 := Memory.sound_ofBytes c.prg
    have h2 := Memory.sound_ofBytes c.chr
    rw [hp] at h1
    rw [hcr] at h2
    simp [Cartridge.sound, Cartridge.supported, hm, hb, h1, h2]
  · cases ht

theorem storageSound_reset : storageSound State.reset = true := by decide

end Sys2Proof.Machine
end

