-- ==== Sys2Proof/Tests/Slice0.lean ====
section
/-! SUPPORT. Tests: ill-formed terms the well-formedness check refuses, words of the opcode table decoded, the spec's
single-instruction vectors (95_test_vectors.md part 2), and for every statement with hypotheses a witness that meets
them. The expected results of the tests are the spec's. -/

namespace Sys2Proof.Tests

open Sys2Proof Sys2Proof.Machine

/-! Ill-formed terms: an operand form the operation has no mode for (40_addressing_modes.md R149), a byte that is not
undefined (30_encoding.md R112). -/

theorem test_wf_refuses_a_store_of_an_immediate : (Instr.sta (.imm 0x00)).wf = false := by decide
theorem test_wf_refuses_the_other_index : (Instr.ldx (.zpx 0x00)).wf = false := by decide
theorem test_wf_refuses_a_jump_through_zero_page : (Instr.jmp (.zp0 0x00)).wf = false := by decide
theorem test_wf_refuses_an_implied_load : (Instr.lda .imp).wf = false := by decide
theorem test_wf_refuses_bit_of_an_immediate : (Instr.bit (.imm 0x01)).wf = false := by decide
theorem test_wf_refuses_sax_indirect_y : (Instr.sax (.izy 0x20)).wf = false := by decide
theorem test_wf_refuses_a_defined_byte : (Instr.undefined 0xA9).wf = false := by decide
theorem test_wf_refuses_the_nop_byte : (Instr.undefined 0xEA).wf = false := by decide
theorem test_encode_of_an_ill_formed_term_is_empty : encode (.sta (.imm 0x00)) = [] := by decide

/-! Decoding (spec/opcode_table.json: the byte of each row; 30_encoding.md R101: low byte of an address first). -/

theorem test_decode_loads_stores :
    decode [0xBD, 0x34, 0x12] = .ok (.lda (.abx 0x34 0x12), []) ∧
    decode [0xB6, 0x34] = .ok (.ldx (.zpy 0x34), []) ∧
    decode [0xAC, 0x34, 0x12] = .ok (.ldy (.abs 0x34 0x12), []) ∧
    decode [0x91, 0x34] = .ok (.sta (.izy 0x34), []) ∧
    decode [0x86, 0x34] = .ok (.stx (.zp0 0x34), []) ∧
    decode [0x94, 0x34] = .ok (.sty (.zpx 0x34), []) := by decide

theorem test_decode_transfers :
    decode [0xAA] = .ok (.tax, []) ∧
    decode [0xA8] = .ok (.tay, []) ∧
    decode [0x8A] = .ok (.txa, []) ∧
    decode [0x98] = .ok (.tya, []) ∧
    decode [0xBA] = .ok (.tsx, []) ∧
    decode [0x9A] = .ok (.txs, []) := by decide

theorem test_decode_logic :
    decode [0x21, 0x34] = .ok (.and (.izx 0x34), []) ∧
    decode [0x19, 0x34, 0x12] = .ok (.ora (.aby 0x34 0x12), []) ∧
    decode [0x49, 0x34] = .ok (.eor (.imm 0x34), []) ∧
    decode [0x2C, 0x34, 0x12] = .ok (.bit (.abs 0x34 0x12), []) := by decide

theorem test_decode_arithmetic :
    decode [0x75, 0x34] = .ok (.adc (.zpx 0x34), []) ∧
    decode [0xF1, 0x34] = .ok (.sbc (.izy 0x34), []) ∧
    decode [0xDD, 0x34, 0x12] = .ok (.cmp (.abx 0x34 0x12), []) ∧
    decode [0xE0, 0x34] = .ok (.cpx (.imm 0x34), []) ∧
    decode [0xC4, 0x34] = .ok (.cpy (.zp0 0x34), []) := by decide

theorem test_decode_increments :
    decode [0xEE, 0x34, 0x12] = .ok (.inc (.abs 0x34 0x12), []) ∧
    decode [0xDE, 0x34, 0x12] = .ok (.dec (.abx 0x34 0x12), []) ∧
    decode [0xE8] = .ok (.inx, []) ∧
    decode [0xC8] = .ok (.iny, []) ∧
    decode [0xCA] = .ok (.dex, []) ∧
    decode [0x88] = .ok (.dey, []) := by decide

theorem test_decode_shifts :
    decode [0x0A] = .ok (.asl .imp, []) ∧
    decode [0x56, 0x34] = .ok (.lsr (.zpx 0x34), []) ∧
    decode [0x2E, 0x34, 0x12] = .ok (.rol (.abs 0x34 0x12), []) ∧
    decode [0x7E, 0x34, 0x12] = .ok (.ror (.abx 0x34 0x12), []) := by decide

theorem test_decode_branches :
    decode [0x90, 0x34] = .ok (.bcc 0x34, []) ∧
    decode [0xB0, 0x34] = .ok (.bcs 0x34, []) ∧
    decode [0xF0, 0x34] = .ok (.beq 0x34, []) ∧
    decode [0xD0, 0x34] = .ok (.bne 0x34, []) ∧
    decode [0x30, 0x34] = .ok (.bmi 0x34, []) ∧
    decode [0x10, 0x34] = .ok (.bpl 0x34, []) ∧
    decode [0x50, 0x34] = .ok (.bvc 0x34, []) ∧
    decode [0x70, 0x34] = .ok (.bvs 0x34, []) := by decide

theorem test_decode_jumps :
    decode [0x4C, 0x34, 0x12] = .ok (.jmp (.abs 0x34 0x12), []) ∧
    decode [0x6C, 0x34, 0x12] = .ok (.jmp (.ind 0x34 0x12), []) ∧
    decode [0x20, 0x34, 0x12] = .ok (.jsr 0x34 0x12, []) ∧
    decode [0x60] = .ok (.rts, []) := by decide

theorem test_decode_stack :
    decode [0x48] = .ok (.pha, []) ∧
    decode [0x68] = .ok (.pla, []) ∧
    decode [0x08] = .ok (.php, []) ∧
    decode [0x28] = .ok (.plp, []) := by decide

theorem test_decode_flags :
    decode [0x18] = .ok (.clc, []) ∧
    decode [0x38] = .ok (.sec, []) ∧
    decode [0x58] = .ok (.cli, []) ∧
    decode [0x78] = .ok (.sei, []) ∧
    decode [0xD8] = .ok (.cld, []) ∧
    decode [0xF8] = .ok (.sed, []) ∧
    decode [0xB8] = .ok (.clv, []) := by decide

theorem test_decode_system :
    decode [0x00] = .ok (.brk, []) ∧
    decode [0x40] = .ok (.rti, []) ∧
    decode [0xEA] = .ok (.nop, []) := by decide

theorem test_decode_undocumented :
    decode [0xBF, 0x34, 0x12] = .ok (.lax (.aby 0x34 0x12), []) ∧
    decode [0x83, 0x34] = .ok (.sax (.izx 0x34), []) ∧
    decode [0xD3, 0x34] = .ok (.dcp (.izy 0x34), []) ∧
    decode [0xFF, 0x34, 0x12] = .ok (.isb (.abx 0x34 0x12), []) ∧
    decode [0x07, 0x34] = .ok (.slo (.zp0 0x34), []) ∧
    decode [0x02] = .ok (.undefined 0x02, []) := by decide

theorem test_decode_refuses_no_bytes : decode [] = .error .noBytes := by decide
theorem test_decode_refuses_a_cut_instruction : decode [0xBD, 0x34] = .error (.truncated 0xBD) := by decide
theorem test_decode_table_word : decodeTableWord 24 0x1234BD = some (.lda (.abx 0x34 0x12)) ∧
    decodeTableWord 8 0x1234BD = some (.lda (.abx 0x00 0x00)) := by decide
theorem test_encode_low_byte_first : encode (.jmp (.ind 0xFF 0x02)) = [0x6C, 0xFF, 0x02] := by decide

/-! One step each: the vectors of 95_test_vectors.md, with the registers, bytes and cost they give. -/

def start (banks : Nat) (prg ram : Memory) : State :=
  { State.reset with
    cart := some { mapperId := 0, prgBanks := banks, chrBanks := 1, prg := prg, chr := [] }
    ram := ram
    pc := 0x8000 }

def flatBacking : Params := { Params.default with unclaimed := .flatBacking }

def nextOf (r : Result) : Option State :=
  match r with
  | .next t => some t
  | .fault _ => none
  | .refused _ => none

def refusalOf (r : Result) : Option Refusal :=
  match r with
  | .next _ => none
  | .fault _ => none
  | .refused r => some r

/-- V9: ABX crossing, load pays +1. -/
theorem test_v9_lda :
    (nextOf (step { start 2 [(0x0, 0xBD), (0x1, 0xFF), (0x2, 0x02)] [(0x300, 0xCD)] with x := 0x01 })).map
      (fun t => (t.a, t.p, t.pc, t.cyc)) =
      some (0xCD, 0xA0, 0x8003, 5) := by decide

/-- V17: IZX pointer at 0x00FF/0x0000 (high byte wraps in page 0). -/
theorem test_v17_lda :
    (nextOf (step { start 2 [(0x0, 0xA1), (0x1, 0xFE)] [(0x0, 0x03), (0xFF, 0x40), (0x100, 0x07), (0x340, 0x5C)] with x := 0x01 })).map
      (fun t => (t.a, t.p, t.pc, t.cyc)) =
      some (0x5C, 0x20, 0x8002, 6) := by decide

/-- V6: ZPY wraps in page 0: EA=0x007F. -/
theorem test_v6_ldx :
    (nextOf (step { start 2 [(0x0, 0xB6), (0x1, 0x80)] [(0x7F, 0x33), (0x17F, 0x22)] with y := 0xFF })).map
      (fun t => (t.x, t.p, t.pc, t.cyc)) =
      some (0x33, 0x20, 0x8002, 4) := by decide

/-- V38: LDY #$FF. -/
theorem test_v38_ldy :
    (nextOf (step (start 2 [(0x0, 0xA0), (0x1, 0xFF)] []))).map (fun t => (t.y, t.p, t.pc, t.cyc)) =
      some (0xFF, 0xA0, 0x8002, 2) := by decide

/-- V12: ABY crossing, store does not pay: cost stays 5. -/
theorem test_v12_sta :
    (nextOf (step { start 2 [(0x0, 0x99), (0x1, 0xF0), (0x2, 0x02)] [] with a := 0x5A, y := 0x20 })).map
      (fun t => (t.p, t.pc, t.ram.read 0x310, t.cyc)) =
      some (0x20, 0x8003, 0x5A, 5) := by decide

/-- V23: IZY crossing, store: base 6, no +1. -/
theorem test_v23_sta :
    (nextOf (step { start 2 [(0x0, 0x91), (0x1, 0x20)] [(0x20, 0xF8), (0x21, 0x02)] with a := 0x11, y := 0x10 })).map
      (fun t => (t.p, t.pc, t.ram.read 0x308, t.cyc)) =
      some (0x20, 0x8002, 0x11, 6) := by decide

/-- V42: STX $10,Y. -/
theorem test_v42_stx :
    (nextOf (step { start 2 [(0x0, 0x96), (0x1, 0x10)] [] with x := 0x0C, y := 0x02 })).map
      (fun t => (t.p, t.pc, t.ram.read 0x012, t.cyc)) =
      some (0x20, 0x8002, 0x0C, 4) := by decide

/-- V43: STY $10. -/
theorem test_v43_sty :
    (nextOf (step { start 2 [(0x0, 0x84), (0x1, 0x10)] [] with y := 0x7F })).map
      (fun t => (t.p, t.pc, t.ram.read 0x010, t.cyc)) =
      some (0x20, 0x8002, 0x7F, 3) := by decide

/-- V44: TAX. -/
theorem test_v44_tax :
    (nextOf (step { start 2 [(0x0, 0xAA)] [] with a := 0x80 })).map (fun t => (t.x, t.p, t.pc, t.cyc)) =
      some (0x80, 0xA0, 0x8001, 2) := by decide

/-- V45: TAY. -/
theorem test_v45_tay :
    (nextOf (step { start 2 [(0x0, 0xA8)] [] with a := 0x00, y := 0x05 })).map (fun t => (t.y, t.p, t.pc, t.cyc)) =
      some (0x00, 0x22, 0x8001, 2) := by decide

/-- V46: TXA. -/
theorem test_v46_txa :
    (nextOf (step { start 2 [(0x0, 0x8A)] [] with x := 0x7F })).map (fun t => (t.a, t.p, t.pc, t.cyc)) =
      some (0x7F, 0x20, 0x8001, 2) := by decide

/-- V47: TYA. -/
theorem test_v47_tya :
    (nextOf (step { start 2 [(0x0, 0x98)] [] with y := 0xFF })).map (fun t => (t.a, t.p, t.pc, t.cyc)) =
      some (0xFF, 0xA0, 0x8001, 2) := by decide

/-- V48: TSX. -/
theorem test_v48_tsx :
    (nextOf (step (start 2 [(0x0, 0xBA)] []))).map (fun t => (t.x, t.p, t.pc, t.cyc)) =
      some (0xFD, 0xA0, 0x8001, 2) := by decide

/-- V50: TXS of 0 does not set Z. -/
theorem test_v50_txs :
    (nextOf (step { start 2 [(0x0, 0x9A)] [] with x := 0x00, sp := 0x80 })).map (fun t => (t.sp, t.p, t.pc, t.cyc)) =
      some (0x00, 0x20, 0x8001, 2) := by decide

/-- V52: AND #$0F. -/
theorem test_v52_and :
    (nextOf (step { start 2 [(0x0, 0x29), (0x1, 0x0F)] [] with a := 0xF0 })).map (fun t => (t.a, t.p, t.pc, t.cyc)) =
      some (0x00, 0x22, 0x8002, 2) := by decide

/-- V53: ORA #$80. -/
theorem test_v53_ora :
    (nextOf (step { start 2 [(0x0, 0x09), (0x1, 0x80)] [] with a := 0x01 })).map (fun t => (t.a, t.p, t.pc, t.cyc)) =
      some (0x81, 0xA0, 0x8002, 2) := by decide

/-- V54: EOR #$FF. -/
theorem test_v54_eor :
    (nextOf (step { start 2 [(0x0, 0x49), (0x1, 0xFF)] [] with a := 0xAA })).map (fun t => (t.a, t.p, t.pc, t.cyc)) =
      some (0x55, 0x20, 0x8002, 2) := by decide

/-- V57: N and V cleared from M bits 7, 6. -/
theorem test_v57_bit :
    (nextOf (step { start 2 [(0x0, 0x2C), (0x2, 0x03)] [(0x300, 0x3F)] with a := 0xFF, p := 0xE0 })).map
      (fun t => (t.p, t.pc, t.cyc)) =
      some (0x20, 0x8003, 4) := by decide

/-- V60: source example S3. -/
theorem test_v60_adc :
    (nextOf (step { start 2 [(0x0, 0x69), (0x1, 0x01)] [] with a := 0x7F })).map (fun t => (t.a, t.p, t.pc, t.cyc)) =
      some (0x80, 0xE0, 0x8002, 2) := by decide

/-- V64: D=1 ignored: binary result 0x0A, not BCD 0x10. -/
theorem test_v64_adc :
    (nextOf (step { start 2 [(0x0, 0x69), (0x1, 0x01)] [] with a := 0x09, p := 0x28 })).map
      (fun t => (t.a, t.p, t.pc, t.cyc)) =
      some (0x0A, 0x28, 0x8002, 2) := by decide

/-- V69: signed overflow. -/
theorem test_v69_sbc :
    (nextOf (step { start 2 [(0x0, 0xE9), (0x1, 0x01)] [] with a := 0x80, p := 0x21 })).map
      (fun t => (t.a, t.p, t.pc, t.cyc)) =
      some (0x7F, 0x61, 0x8002, 2) := by decide

/-- V73: D=1 ignored: 0x0F, not BCD 0x09. -/
theorem test_v73_sbc :
    (nextOf (step { start 2 [(0x0, 0xE9), (0x1, 0x01)] [] with a := 0x10, p := 0x29 })).map
      (fun t => (t.a, t.p, t.pc, t.cyc)) =
      some (0x0F, 0x29, 0x8002, 2) := by decide

/-- V77: N is bit 7 of the 8-bit difference 0x7F. -/
theorem test_v77_cmp :
    (nextOf (step { start 2 [(0x0, 0xC9), (0x1, 0x01)] [] with a := 0x80 })).map (fun t => (t.p, t.pc, t.cyc)) =
      some (0x21, 0x8002, 2) := by decide

/-- V78: difference 0x01; V untouched. -/
theorem test_v78_cmp :
    (nextOf (step { start 2 [(0x0, 0xC9), (0x1, 0xFF)] [] with a := 0x00, p := 0x60 })).map
      (fun t => (t.p, t.pc, t.cyc)) =
      some (0x60, 0x8002, 2) := by decide

/-- V79: CPX #$10. -/
theorem test_v79_cpx :
    (nextOf (step { start 2 [(0x0, 0xE0), (0x1, 0x10)] [] with x := 0x10 })).map (fun t => (t.p, t.pc, t.cyc)) =
      some (0x23, 0x8002, 2) := by decide

/-- V80: CPY #$02. -/
theorem test_v80_cpy :
    (nextOf (step { start 2 [(0x0, 0xC0), (0x1, 0x02)] [] with y := 0x01 })).map (fun t => (t.p, t.pc, t.cyc)) =
      some (0xA0, 0x8002, 2) := by decide

/-- V83: wraps; C untouched. -/
theorem test_v83_inc :
    (nextOf (step { start 2 [(0x0, 0xE6)] [(0x0, 0xFF)] with p := 0x21 })).map
      (fun t => (t.p, t.pc, t.ram.read 0x000, t.cyc)) =
      some (0x23, 0x8002, 0x00, 5) := by decide

/-- V85: INC ABX crossing: base 7, no +1. -/
theorem test_v85_inc :
    (nextOf (step { start 2 [(0x0, 0xFE), (0x1, 0xFF), (0x2, 0x02)] [(0x300, 0x01)] with x := 0x01 })).map
      (fun t => (t.p, t.pc, t.ram.read 0x300, t.cyc)) =
      some (0x20, 0x8003, 0x02, 7) := by decide

/-- V87: DEC $01. -/
theorem test_v87_dec :
    (nextOf (step (start 2 [(0x0, 0xC6), (0x1, 0x01)] []))).map (fun t => (t.p, t.pc, t.ram.read 0x001, t.cyc)) =
      some (0xA0, 0x8002, 0xFF, 5) := by decide

/-- V90: INX. -/
theorem test_v90_inx :
    (nextOf (step { start 2 [(0x0, 0xE8)] [] with x := 0xFF })).map (fun t => (t.x, t.p, t.pc, t.cyc)) =
      some (0x00, 0x22, 0x8001, 2) := by decide

/-- V91: INY. -/
theorem test_v91_iny :
    (nextOf (step { start 2 [(0x0, 0xC8)] [] with y := 0x7F })).map (fun t => (t.y, t.p, t.pc, t.cyc)) =
      some (0x80, 0xA0, 0x8001, 2) := by decide

/-- V93: DEX. -/
theorem test_v93_dex :
    (nextOf (step { start 2 [(0x0, 0xCA)] [] with x := 0x00 })).map (fun t => (t.x, t.p, t.pc, t.cyc)) =
      some (0xFF, 0xA0, 0x8001, 2) := by decide

/-- V94: DEY. -/
theorem test_v94_dey :
    (nextOf (step { start 2 [(0x0, 0x88)] [] with y := 0x01 })).map (fun t => (t.y, t.p, t.pc, t.cyc)) =
      some (0x00, 0x22, 0x8001, 2) := by decide

/-- V97: memory form: Z, N from the byte written, A untouched. -/
theorem test_v97_asl :
    (nextOf (step { start 2 [(0x0, 0x06), (0x1, 0x10)] [(0x10, 0x40)] with a := 0xFF })).map
      (fun t => (t.p, t.pc, t.ram.read 0x010, t.cyc)) =
      some (0xA0, 0x8002, 0x80, 5) := by decide

/-- V98: ASL ABX crossing: 7. -/
theorem test_v98_asl :
    (nextOf (step { start 2 [(0x0, 0x1E), (0x1, 0xFF), (0x2, 0x02)] [(0x300, 0x01)] with x := 0x01 })).map
      (fun t => (t.p, t.pc, t.ram.read 0x300, t.cyc)) =
      some (0x20, 0x8003, 0x02, 7) := by decide

/-- V101: N always 0 after LSR. -/
theorem test_v101_lsr :
    (nextOf (step { start 2 [(0x0, 0x4A)] [] with a := 0x80, p := 0xA1 })).map (fun t => (t.a, t.p, t.pc, t.cyc)) =
      some (0x40, 0x20, 0x8001, 2) := by decide

/-- V103: ROL A. -/
theorem test_v103_rol :
    (nextOf (step { start 2 [(0x0, 0x2A)] [] with a := 0x80, p := 0x20 })).map (fun t => (t.a, t.p, t.pc, t.cyc)) =
      some (0x00, 0x23, 0x8001, 2) := by decide

/-- V104: ROL $10. -/
theorem test_v104_rol :
    (nextOf (step { start 2 [(0x0, 0x26), (0x1, 0x10)] [(0x10, 0xFF)] with p := 0x21 })).map
      (fun t => (t.p, t.pc, t.ram.read 0x010, t.cyc)) =
      some (0xA1, 0x8002, 0xFF, 5) := by decide

/-- V105: ROR A. -/
theorem test_v105_ror :
    (nextOf (step { start 2 [(0x0, 0x6A)] [] with a := 0x02, p := 0x21 })).map (fun t => (t.a, t.p, t.pc, t.cyc)) =
      some (0x81, 0xA0, 0x8001, 2) := by decide

/-- V108: taken, same page. -/
theorem test_v108_bcc :
    (nextOf (step (start 2 [(0x0, 0x90), (0x1, 0x02)] []))).map (fun t => (t.p, t.pc, t.cyc)) =
      some (0x20, 0x8004, 3) := by decide

/-- V109: not taken. -/
theorem test_v109_bcc :
    (nextOf (step { start 2 [(0x0, 0x90), (0x1, 0x02)] [] with p := 0x21 })).map (fun t => (t.p, t.pc, t.cyc)) =
      some (0x21, 0x8002, 2) := by decide

/-- V111: BCS $8004. -/
theorem test_v111_bcs :
    (nextOf (step { start 2 [(0x0, 0xB0), (0x1, 0x02)] [] with p := 0x21 })).map (fun t => (t.p, t.pc, t.cyc)) =
      some (0x21, 0x8004, 3) := by decide

/-- V112: taken to another page: +2. -/
theorem test_v112_beq :
    (nextOf (step { start 2 [(0xFD, 0xF0), (0xFE, 0x01)] [] with p := 0x22, pc := 0x80FD })).map
      (fun t => (t.p, t.pc, t.cyc)) =
      some (0x22, 0x8100, 4) := by decide

/-- V123: opcode in page 0x80, following byte 0x8100 and target in page 0x81: only +1 (the comparison uses the following byte). -/
theorem test_v123_bne :
    (nextOf (step { start 2 [(0xFE, 0xD0), (0xFF, 0x02)] [] with pc := 0x80FE })).map (fun t => (t.p, t.pc, t.cyc)) =
      some (0x20, 0x8102, 3) := by decide

/-- V116: backward across a page. -/
theorem test_v116_bne :
    (nextOf (step { start 2 [(0x100, 0xD0), (0x101, 0xFD)] [] with pc := 0x8100 })).map
      (fun t => (t.p, t.pc, t.cyc)) =
      some (0x20, 0x80FF, 4) := by decide

/-- V117: BMI $8081. -/
theorem test_v117_bmi :
    (nextOf (step { start 2 [(0x0, 0x30), (0x1, 0x7F)] [] with p := 0xA0 })).map (fun t => (t.p, t.pc, t.cyc)) =
      some (0xA0, 0x8081, 3) := by decide

/-- V118: offset -128, another page. -/
theorem test_v118_bpl :
    (nextOf (step (start 2 [(0x0, 0x10), (0x1, 0x80)] []))).map (fun t => (t.p, t.pc, t.cyc)) =
      some (0x20, 0x7F82, 4) := by decide

/-- V120: BVC $8012. -/
theorem test_v120_bvc :
    (nextOf (step (start 2 [(0x0, 0x50), (0x1, 0x10)] []))).map (fun t => (t.p, t.pc, t.cyc)) =
      some (0x20, 0x8012, 3) := by decide

/-- V121: BVS $8012. -/
theorem test_v121_bvs :
    (nextOf (step { start 2 [(0x0, 0x70), (0x1, 0x10)] [] with p := 0x60 })).map (fun t => (t.p, t.pc, t.cyc)) =
      some (0x60, 0x8012, 3) := by decide

/-- V14: IND page-wrap defect: high byte from 0x0200. -/
theorem test_v14_jmp :
    (nextOf (step (start 2 [(0x0, 0x6C), (0x1, 0xFF), (0x2, 0x02)] [(0x200, 0x12), (0x2FF, 0x34), (0x300, 0x56)]))).map
      (fun t => (t.p, t.pc, t.cyc)) =
      some (0x20, 0x1234, 5) := by decide

/-- V125: JMP $8010. -/
theorem test_v125_jmp :
    (nextOf (step (start 2 [(0x0, 0x4C), (0x1, 0x10), (0x2, 0x80)] []))).map (fun t => (t.p, t.pc, t.cyc)) =
      some (0x20, 0x8010, 3) := by decide

/-- V128: SP wraps between the two pushes. -/
theorem test_v128_jsr :
    (nextOf (step { start 2 [(0x0, 0x20), (0x2, 0x90)] [] with sp := 0x00 })).map
      (fun t => (t.sp, t.p, t.pc, [t.ram.read 0x100, t.ram.read 0x1FF], t.cyc)) =
      some (0xFE, 0x20, 0x9000, [0x80, 0x02], 6) := by decide

/-- V130: 0xFFFF + 1 wraps. -/
theorem test_v130_rts :
    (nextOf (step { start 2 [(0x1000, 0x60)] [(0x1FC, 0xFF), (0x1FD, 0xFF)] with sp := 0xFB, pc := 0x9000 })).map
      (fun t => (t.sp, t.p, t.pc, t.cyc)) =
      some (0xFD, 0x20, 0x0000, 6) := by decide

/-- V131: SP wraps on the first pop. -/
theorem test_v131_rts :
    (nextOf (step { start 2 [(0x1000, 0x60)] [(0x100, 0x34), (0x101, 0x12)] with sp := 0xFF, pc := 0x9000 })).map
      (fun t => (t.sp, t.p, t.pc, t.cyc)) =
      some (0x01, 0x20, 0x1235, 6) := by decide

/-- V133: push at SP=0 wraps. -/
theorem test_v133_pha :
    (nextOf (step { start 2 [(0x0, 0x48)] [] with a := 0x42, sp := 0x00 })).map
      (fun t => (t.sp, t.p, t.pc, t.ram.read 0x100, t.cyc)) =
      some (0xFF, 0x20, 0x8001, 0x42, 3) := by decide

/-- V135: pop at SP=0xFF reads 0x0100. -/
theorem test_v135_pla :
    (nextOf (step { start 2 [(0x0, 0x68)] [(0x100, 0x80)] with sp := 0xFF })).map
      (fun t => (t.a, t.sp, t.p, t.pc, t.cyc)) =
      some (0x80, 0x00, 0xA0, 0x8001, 4) := by decide

/-- V137: PHP. -/
theorem test_v137_php :
    (nextOf (step { start 2 [(0x0, 0x08)] [] with p := 0xE3 })).map
      (fun t => (t.sp, t.p, t.pc, t.ram.read 0x1FD, t.cyc)) =
      some (0xFC, 0xC3, 0x8001, 0xF3, 3) := by decide

/-- V139: B kept from the stack (live B = 1), U forced. -/
theorem test_v139_plp :
    (nextOf (step { start 2 [(0x0, 0x28)] [(0x1FD, 0x30)] with sp := 0xFC })).map
      (fun t => (t.sp, t.p, t.pc, t.cyc)) =
      some (0xFD, 0x30, 0x8001, 4) := by decide

/-- V141: CLC. -/
theorem test_v141_clc :
    (nextOf (step { start 2 [(0x0, 0x18)] [] with p := 0x21 })).map (fun t => (t.p, t.pc, t.cyc)) =
      some (0x20, 0x8001, 2) := by decide

/-- V142: SEC. -/
theorem test_v142_sec :
    (nextOf (step (start 2 [(0x0, 0x38)] []))).map (fun t => (t.p, t.pc, t.cyc)) =
      some (0x21, 0x8001, 2) := by decide

/-- V143: CLI. -/
theorem test_v143_cli :
    (nextOf (step { start 2 [(0x0, 0x58)] [] with p := 0x24 })).map (fun t => (t.p, t.pc, t.cyc)) =
      some (0x20, 0x8001, 2) := by decide

/-- V144: SEI. -/
theorem test_v144_sei :
    (nextOf (step (start 2 [(0x0, 0x78)] []))).map (fun t => (t.p, t.pc, t.cyc)) =
      some (0x24, 0x8001, 2) := by decide

/-- V145: CLD. -/
theorem test_v145_cld :
    (nextOf (step { start 2 [(0x0, 0xD8)] [] with p := 0x28 })).map (fun t => (t.p, t.pc, t.cyc)) =
      some (0x20, 0x8001, 2) := by decide

/-- V146: SED. -/
theorem test_v146_sed :
    (nextOf (step (start 2 [(0x0, 0xF8)] []))).map (fun t => (t.p, t.pc, t.cyc)) =
      some (0x28, 0x8001, 2) := by decide

/-- V147: CLV. -/
theorem test_v147_clv :
    (nextOf (step { start 2 [(0x0, 0xB8)] [] with p := 0x60 })).map (fun t => (t.p, t.pc, t.cyc)) =
      some (0x20, 0x8001, 2) := by decide

/-- V151: uniform SP wrap in BRK. -/
theorem test_v151_brk :
    (nextOf (step { start 2 [(0x7FFF, 0x90)] [] with sp := 0x01 })).map
      (fun t => (t.sp, t.p, t.pc, [t.ram.read 0x101, t.ram.read 0x100, t.ram.read 0x1FF], t.cyc)) =
      some (0xFE, 0x24, 0x9000, [0x80, 0x02, 0x30], 7) := by decide

/-- V153: BRK is not masked by I. -/
theorem test_v153_brk :
    (nextOf (step { start 2 [(0x7FFE, 0x34), (0x7FFF, 0x12)] [] with p := 0x24 })).map
      (fun t => (t.sp, t.p, t.pc, [t.ram.read 0x1FD, t.ram.read 0x1FC, t.ram.read 0x1FB], t.cyc)) =
      some (0xFA, 0x24, 0x1234, [0x80, 0x02, 0x34], 7) := by decide

/-- V150: B from the stack is live after RTI. -/
theorem test_v150_rti :
    (nextOf (step { start 2 [(0x1000, 0x40)] [(0x1FB, 0x31), (0x1FC, 0x02), (0x1FD, 0x80)] with sp := 0xFA, p := 0x25, pc := 0x9000 })).map
      (fun t => (t.sp, t.p, t.pc, t.cyc)) =
      some (0xFD, 0x31, 0x8002, 6) := by decide

/-- V154: RTI: no +1 on the address; U forced. -/
theorem test_v154_rti :
    (nextOf (step { start 2 [(0x1000, 0x40)] [(0x1FC, 0x34), (0x1FD, 0x12)] with sp := 0xFA, p := 0x24, pc := 0x9000 })).map
      (fun t => (t.sp, t.p, t.pc, t.cyc)) =
      some (0xFD, 0x20, 0x1234, 6) := by decide

/-- V148: dispatch forces U: P=0x00 becomes 0x20 at any instruction. -/
theorem test_v148_nop :
    (nextOf (step { start 2 [(0x0, 0xEA)] [] with p := 0x00 })).map (fun t => (t.p, t.pc, t.cyc)) =
      some (0x20, 0x8001, 2) := by decide

/-- V157: LAX IZY crossing pays +1. -/
theorem test_v157_lax :
    (nextOf (step { start 2 [(0x0, 0xB3), (0x1, 0x20)] [(0x20, 0xF8), (0x21, 0x02)] with y := 0x10 })).map
      (fun t => (t.p, t.pc, t.cyc)) =
      some (0x22, 0x8002, 6) := by decide

/-- V160: SAX $10,Y. -/
theorem test_v160_sax :
    (nextOf (step { start 2 [(0x0, 0x97), (0x1, 0x10)] [] with a := 0xFF, x := 0x0F, y := 0x01 })).map
      (fun t => (t.p, t.pc, t.ram.read 0x011, t.cyc)) =
      some (0x20, 0x8002, 0x0F, 4) := by decide

/-- V162: 0x00 becomes 0xFF; 0x10 - 0xFF = 0x11. -/
theorem test_v162_dcp :
    (nextOf (step { start 2 [(0x0, 0xC7), (0x1, 0x20)] [] with a := 0x10 })).map
      (fun t => (t.p, t.pc, t.ram.read 0x020, t.cyc)) =
      some (0x20, 0x8002, 0xFF, 5) := by decide

/-- V166: ISB $0300,X. -/
theorem test_v166_isb :
    (nextOf (step { start 2 [(0x0, 0xFF), (0x2, 0x03)] [] with a := 0x00, x := 0x01, p := 0x20 })).map
      (fun t => (t.a, t.p, t.pc, t.ram.read 0x301, t.cyc)) =
      some (0xFE, 0xA0, 0x8003, 0x01, 7) := by decide

/-- V168: SLO ($20,X). -/
theorem test_v168_slo :
    (nextOf (step { start 2 [(0x0, 0x03), (0x1, 0x20)] [(0x25, 0x03), (0x300, 0x80)] with a := 0x00, x := 0x04 })).map
      (fun t => (t.p, t.pc, t.ram.read 0x300, t.cyc)) =
      some (0x23, 0x8002, 0x00, 8) := by decide

/-- V171: stacked P has I=0, B=0, U=1. -/
theorem test_v171_irq :
    (nextOf (.next (irq { start 2 [(0x7FFF, 0x90)] [] with p := 0x63, pc := 0x8123 }))).map
      (fun t => (t.sp, t.p, t.pc, [t.ram.read 0x1FD, t.ram.read 0x1FC, t.ram.read 0x1FB], t.cyc)) =
      some (0xFA, 0x67, 0x9000, [0x81, 0x23, 0x63], 7) := by decide

/-- V172: I=1: request discarded, nothing changes. -/
theorem test_v172_irq :
    (nextOf (.next (irq { start 2 [(0x7FFF, 0x90)] [] with p := 0x24, pc := 0x8123 }))).map (fun t => (t.p, t.pc)) =
      some (0x24, 0x8123) := by decide

/-- V173: NMI ignores I; stacked I=1. -/
theorem test_v173_nmi :
    (nextOf (.next (nmi { start 2 [(0x7FFB, 0xA0)] [] with p := 0x24, pc := 0x8123 }))).map
      (fun t => (t.sp, t.p, t.pc, [t.ram.read 0x1FD, t.ram.read 0x1FC, t.ram.read 0x1FB], t.cyc)) =
      some (0xFA, 0x24, 0xA000, [0x81, 0x23, 0x24], 8) := by decide

/-- V176: source example S1; memory untouched. -/
theorem test_v176_reset :
    (nextOf (.next (resetEvent { start 2 [(0x7FFD, 0x80)] [] with a := 0x01, x := 0x02, y := 0x03, sp := 0x10, p := 0xFF, pc := 0x1234 }))).map
      (fun t => (t.pc, [t.a, t.x, t.y, t.sp, t.p], t.cyc)) =
      some (0x8000, [0x00, 0x00, 0x00, 0xFD, 0x20], 8) := by decide

/-- V169 and V170: an undefined byte is refused by name. -/
theorem test_v169_undefined :
    refusalOf (step (start 2 [(0, 0x02)] [])) = some (.undefinedOpcode 0x02) := by decide
theorem test_v170_undefined :
    refusalOf (step (start 2 [(0, 0xEB), (1, 0x01)] [])) = some (.undefinedOpcode 0xEB) := by decide

/-- The host's question: a word placed where the next step fetches it runs as the first instruction after reset. -/
theorem test_with_fetch_word :
    (nextOf (step (State.reset.withFetchWord 16 0x80A9))).map (fun t => (t.a, t.p, t.pc)) =
      some (0x80, 0xA0, 0x0002) := by decide

/-- The disassembly of a branch shows its target, that of an indirect jump its pointer (30_encoding.md R120). -/
theorem test_disassemble :
    disassemble (start 2 [(0, 0xD0), (1, 0xFA)] []) 0x8000 = "BNE $7FFC" ∧
    disassemble (start 2 [(0, 0x6C), (1, 0xFF), (2, 0x02)] []) 0x8000 = "JMP ($02FF)" := by decide

/-- The RAM snapshot has 2048 bytes (70_reset_and_hazards.md R337). -/
theorem test_snapshot_length (s : State) : (readSnapshot s).length = 2048 := by simp [readSnapshot, Config.ramSize]

/-! Witnesses: for every statement with hypotheses, a state and operands that meet all of them together, clause by
clause, at the ends of the ranges. -/

/-- A state with these events due. -/
def due (events : List Event) : State := (start 2 [(0, 0xEA)] []).setSchedule events

/-- A state whose `UNDEF_ENTRY` supplies entries, one of them a branch. -/
def supplied : State :=
  { start 2 [(0, 0x04), (1, 0x12), (2, 0x03)] [] with
    params := { Params.default with undefEntry := [⟨0x04, .lda, .abx, 4⟩, ⟨0x80, .bne, .rel, 2⟩, ⟨0xFC, .sta, .imp, 3⟩] } }

/-- The same machine with one bank, with none, and over the backing array. -/
def oneBank : State := start 1 [] []
def flat : State := { State.reset with params := flatBacking }
def flatCart : State := { start 2 [] [] with params := flatBacking }

/-- A cartridge with its CHR in RAM, one with a CHR bank, one no policy exists for. -/
def chrRam : Cartridge := { mapperId := 0, prgBanks := 1, chrBanks := 0, prg := [], chr := [] }
def chrRom : Cartridge := { mapperId := 0, prgBanks := 2, chrBanks := 1, prg := [], chr := [] }
def unsupported : Cartridge := { mapperId := 1, prgBanks := 1, chrBanks := 0, prg := [], chr := [] }

theorem witness_DecodeInvertsEncode :
    (Instr.lda (.abx 0xFF 0x02)).wf = true ∧ (Instr.jsr 0x00 0x90).wf = true ∧ (Instr.brk).wf = true ∧
      (Instr.undefined 0xFC).wf = true := by decide

theorem witness_StepRunsTheNextEvent_instruction :
    cartridgeOk (due []) = true ∧ (due []).schedule = [] ∧
      decode [memRead (due []) (due []).pc, memRead (due []) ((due []).pc + 1), memRead (due []) ((due []).pc + 2)] =
        .ok (.nop, [0x00, 0x00]) := by decide
theorem witness_StepRunsTheNextEvent_scheduled :
    cartridgeOk (due [.instruction, .irq]) = true ∧ (due [.instruction, .irq]).schedule = .instruction :: [.irq] ∧
      decode [memRead (due [.instruction, .irq]) (due [.instruction, .irq]).pc,
        memRead (due [.instruction, .irq]) ((due [.instruction, .irq]).pc + 1),
        memRead (due [.instruction, .irq]) ((due [.instruction, .irq]).pc + 2)] = .ok (.nop, [0x00, 0x00]) := by decide
theorem witness_StepRunsTheNextEvent_events :
    (due [.irq]).schedule = .irq :: [] ∧ (due [.nmi]).schedule = .nmi :: [] ∧ (due [.reset]).schedule = .reset :: [] ∧
      (due [.tick]).schedule = .tick :: [] ∧ (due [.sysclockTick, .nmi]).schedule = .sysclockTick :: [.nmi] := by decide
theorem witness_StepRunsTheNextEvent_cartridge :
    cartridgeOk (due [.irq]) = true ∧ cartridgeOk (due [.nmi]) = true ∧ cartridgeOk (due [.reset]) = true ∧
      cartridgeOk (due [.tick]) = true ∧ cartridgeOk (due [.sysclockTick, .nmi]) = true := by decide

theorem witness_DecimalFlagDoesNotChangeArithmetic :
    (∃ t, exec (.adc (.imm 0x99)) State.reset = .next t) ∧ (∃ t, exec (.sbc (.imm 0x99)) State.reset = .next t) ∧
      (∃ t, exec (.isb (.zp0 0x20)) State.reset = .next t) := ⟨⟨_, rfl⟩, ⟨_, rfl⟩, ⟨_, rfl⟩⟩

theorem witness_BranchesFollowTheirFlag_taken : (.bcc, .bcc, 0x90, .c, false) ∈ branchConditions ∧
    (.bvs, .bvs, 0x70, .v, true) ∈ branchConditions ∧ State.reset.flag .c = false ∧
      (State.reset.setFlag .v true).flag .v = true :=
  ⟨.head _, .tail _ (.tail _ (.tail _ (.tail _ (.tail _ (.tail _ (.tail _ (.head _))))))), by decide, by decide⟩
theorem witness_BranchesFollowTheirFlag_not_taken : (.bcc, .bcc, 0x90, .c, false) ∈ branchConditions ∧
    (State.reset.setFlag .c true).flag .c ≠ false := ⟨.head _, by decide⟩

theorem witness_ShiftsMoveOneBit : Operand.imp = .imp ∧ Operand.zp0 0xFF ≠ .imp := by decide

theorem witness_FlagInstructionsChangeOneFlag :
    (.clc, .clc, 0x18, .c, false) ∈ flagInstructions ∧ (∃ t, exec .cli State.reset = .next t) ∧
      (∃ t, exec .sei State.reset = .next t) := ⟨by decide, ⟨_, rfl⟩, ⟨_, rfl⟩⟩

theorem witness_UndefinedBytesRefuseOrRunTheirEntry_refused :
    suppliedEntry State.reset.params 0x02 = none := by decide
theorem witness_UndefinedBytesRefuseOrRunTheirEntry_supplied :
    suppliedEntry supplied.params 0x04 = some ⟨0x04, .lda, .abx, 4⟩ ∧ (Mode.abx ∈ Op.lda.modes) ∧
      suppliedEntry supplied.params 0x80 = some ⟨0x80, .bne, .rel, 2⟩ ∧ (Mode.rel ∈ Op.bne.modes) := by decide
theorem witness_UndefinedBytesRefuseOrRunTheirEntry_any_pair :
    suppliedEntry supplied.params 0xFC = some ⟨0xFC, .sta, .imp, 3⟩ ∧ ¬(Mode.imp ∈ Op.sta.modes) := by decide

theorem witness_IrqIsGatedAndNmiIsNot :
    State.reset.flag .i = false ∧ (State.reset.setFlag .i true).flag .i = true := by decide

theorem witness_InterruptEntrySavesAndMasks : (start 2 [] []).flag .i = false := by decide

theorem witness_ResetEventSetsTheEntryState_cartridge :
    (∃ c, oneBank.cart = some c ∧ c.supported = true ∧ c.prgBanks = 1) ∧
      (∃ c, (start 2 [] []).cart = some c ∧ c.supported = true ∧ c.prgBanks ≠ 1) :=
  ⟨⟨_, rfl, by decide⟩, ⟨_, rfl, by decide⟩⟩
theorem witness_ResetEventSetsTheEntryState_none :
    (State.reset.cart = none ∧ State.reset.params.unclaimed = .zeroDrop) ∧
      (flat.cart = none ∧ flat.params.unclaimed = .flatBacking) := by decide

/-- The ranges of the address map meet at 0x1FFF and 0x2000, 0x3FFF and 0x4000, 0x7FFF and 0x8000; with a cartridge
of one bank at 0xBFFF and 0xC000. -/
theorem witness_BusDecoderFollowsTheAddressMap_low :
    cartridgeOk flatCart = true ∧ locate flatCart 0x0000 = .ram 0 ∧ locate flatCart 0x1FFF = .ram 2047 ∧
      locate flatCart 0x2000 = .ppureg 0 ∧ locate flatCart 0x3FFF = .ppureg 7 := by decide
theorem witness_BusDecoderFollowsTheAddressMap_unclaimed :
    cartridgeOk flatCart = true ∧ flatCart.params.unclaimed = .flatBacking ∧ locate flatCart 0x4000 = .back 0x4000 ∧
      locate flatCart 0x7FFF = .back 0x7FFF ∧ flat.cart = none ∧ locate flat 0xFFFF = .back 0xFFFF := by decide
theorem witness_BusDecoderFollowsTheAddressMap_dropped :
    cartridgeOk oneBank = true ∧ oneBank.params.unclaimed = .zeroDrop ∧ locate oneBank 0x4000 = .dropped ∧
      locate oneBank 0x7FFF = .dropped ∧ State.reset.cart = none ∧ locate State.reset 0xFFFF = .dropped := by decide
theorem witness_BusDecoderFollowsTheAddressMap_cartridge :
    (∃ c, oneBank.cart = some c ∧ c.prgBanks = 1) ∧ (∃ c, flatCart.cart = some c ∧ c.prgBanks ≠ 1) ∧
      locate oneBank 0x8000 = .prg 0 ∧ locate oneBank 0xBFFF = .prg 16383 ∧ locate oneBank 0xC000 = .prg 0 ∧
      locate flatCart 0xC000 = .prg 16384 ∧ locate flatCart 0xFFFF = .prg 32767 :=
  ⟨⟨_, rfl, rfl⟩, ⟨_, rfl, by decide⟩, by decide⟩

theorem witness_StoresAreVisibleAtEveryMirror :
    cartridgeOk oneBank = true ∧ (∃ c, oneBank.cart = some c ∧ c.prgBanks = 1) ∧ 2047 < 2048 ∧ 3 < 4 ∧ 7 < 8 ∧
      1023 < 1024 ∧ 16383 < 16384 ∧ 1 < 2 := ⟨by decide, ⟨_, rfl, rfl⟩, by decide⟩

theorem witness_MapperOffsetsStayInBounds :
    chrRam.supported = true ∧ cpuMap chrRam 0xFFFF = some 0x3FFF ∧ ppuMapRead chrRam 0x1FFF = some 0x1FFF ∧
      ppuMapWrite chrRam 0x1FFF = some 0x1FFF := by decide

theorem witness_PpuPortReachesChr :
    (State.reset.setCart (some chrRam)).cart = some chrRam ∧ chrRam.supported = true ∧ chrRam.chrBanks = 0 ∧
      (State.reset.setCart (some chrRom)).cart = some chrRom ∧ chrRom.supported = true ∧ chrRom.chrBanks ≠ 0 ∧
      (0x1FFF : Word).toNat ≤ 0x1FFF ∧ 0x1FFF < (0x2000 : Word).toNat := by decide

/-- The dearest and the cheapest cost: an undocumented read-modify-write and an implied instruction. -/
theorem witness_CostsLieBetweenTwoAndEight :
    (Instr.isb (.izy 0x20)).wf = true ∧ (Instr.isb (.izy 0x20)).op ≠ none ∧ State.reset.params.baseCycles = [] ∧
      (nextOf (exec (.isb (.izy 0x20)) State.reset)).map State.cyc = some 8 ∧ (Instr.nop).wf = true ∧
      (nextOf (exec .nop State.reset)).map State.cyc = some 2 := by decide

theorem witness_OnlyPhpLeavesUClear :
    (Instr.php).op ≠ none ∧ (∃ t, exec .php State.reset = .next t) ∧ (Instr.plp).op ≠ none ∧
      (∃ t, exec .plp State.reset = .next t) := ⟨by decide, ⟨_, rfl⟩, by decide, ⟨_, rfl⟩⟩

theorem witness_FlagsChangeOnlyWhereTheTableSays :
    (Instr.sec).op = some .sec ∧ Flag.c ≠ .u ∧
      ∃ t, exec .sec State.reset = .next t ∧ t.flag .c ≠ State.reset.flag .c := ⟨rfl, by decide, _, rfl, by decide⟩

theorem witness_RegistersChangeOnlyWhereTheRulesSay :
    (Instr.dex).op = some .dex ∧ ∃ t, exec .dex State.reset = .next t ∧ t.reg .x ≠ State.reset.reg .x :=
  ⟨rfl, _, rfl, by decide⟩

theorem witness_StepRefusesOnlyByName_cartridge : cartridgeOk (State.reset.setCart (some unsupported)) = false := by
  decide
theorem witness_StepRefusesOnlyByName_undefined :
    cartridgeOk (start 2 [(0, 0xFC)] []) = true ∧
      step (start 2 [(0, 0xFC)] []) = .refused (.undefinedOpcode 0xFC) := ⟨by decide, rfl⟩

theorem witness_StepKeepsTheInvariant : State.reset.Inv ∧ (∃ t, step State.reset = .next t) ∧
    (due [.sysclockTick]).Inv ∧ (∃ t, step (due [.sysclockTick]) = .next t) :=
  ⟨by decide, ⟨_, rfl⟩, by decide, ⟨_, rfl⟩⟩

theorem witness_GeometryAndParametersNeverChange : ∃ t, step (due [.reset]) = .next t := ⟨_, rfl⟩

theorem witness_TicksDispatchThenCountDown :
    cartridgeOk (due []) = true ∧ (due []).cyc ≠ 0 ∧ ((due []).setCyc 0).cyc = 0 ∧
      (∃ t, runInstruction ((due []).setCyc 0) = .next t) ∧ (due []).ticks % 3 = 0 ∧
      (∃ t, tick (due []) = .next t) ∧ ((due []).setTicks 2).ticks % 3 ≠ 0 :=
  ⟨by decide, by decide, rfl, ⟨_, rfl⟩, by decide, ⟨_, rfl⟩, by decide⟩

theorem witness_InstructionOfCostNTakesNTicks :
    ((due []).setCyc 0).cyc = 0 ∧ ∃ t, runInstruction ((due []).setCyc 0) = .next t ∧ 1 ≤ 2 ∧ 2 ≤ t.cyc :=
  ⟨rfl, _, rfl, by decide, by decide⟩

theorem witness_AdvanceIsOneStep : ∃ t, runInstruction (due []) = .next t ∧ 1 ≤ t.cyc := ⟨_, rfl, by decide⟩

theorem witness_AttachedCartridges_refused : ∃ c : CartridgeImage,
    ¬(c.mapperId = 0 ∧ 1 ≤ c.prgBanks ∧ c.prg.length = c.prgBanks * 16384 ∧
      c.chr.length = (if c.chrBanks = 0 then 8192 else c.chrBanks * 8192)) := ⟨⟨0, 1, 0, [0xEA], []⟩, by decide⟩
theorem witness_AttachedCartridges_accepted : State.reset.Inv ∧ ∃ c : CartridgeImage,
    c.mapperId = 0 ∧ 1 ≤ c.prgBanks ∧ c.prg.length = c.prgBanks * 16384 ∧
      c.chr.length = (if c.chrBanks = 0 then 8192 else c.chrBanks * 8192) :=
  ⟨by decide, ⟨0, 1, 0, List.replicate 16384 0xEA, List.replicate 8192 0x00⟩, rfl, Nat.le_refl 1,
    List.length_replicate, List.length_replicate⟩

end Sys2Proof.Tests
end

section
/-! The meaning of every instruction with an operation, and which instructions the decoder answers as undefined. -/

namespace Sys2Proof

/-- The instruction built for an operation has that operation. -/
@[simp] theorem Instr.op_build (o : Op) (m : Mode) (b1 b2 : Byte) : (Instr.build o m b1 b2).op = some o := by
  cases o <;> rfl

/-- Only a byte of rule R112's 74 decodes to an undefined instruction, and it carries that byte. -/
theorem decodeBytes_undefined {b0 b1 b2 b : Byte} (h : decodeBytes b0 b1 b2 = .undefined b) :
    b = b0 ∧ b ∈ undefinedBytes := by
  unfold decodeBytes at h
  split at h
  · have hop := congrArg Instr.op h
    rw [Instr.op_build] at hop
    cases hop
  · next hnone =>
    cases h
    exact ⟨rfl, (findEntry_none_iff b0).mp hnone⟩

namespace Machine

/-- An instruction with an operation runs that operation on its operand form: the two dispatch tables of rule R105
agree. -/
theorem exec_of_op {i : Instr} {o : Op} (h : i.op = some o) (s : State) :
    exec i s = performWith s o i.operand (operationOf o i.operand) := by
  cases i <;> cases h <;> rfl

/-- An instruction without an operation is an undefined opcode byte. -/
theorem eq_undefined_of_op_none {i : Instr} (h : i.op = none) : ∃ b, i = .undefined b := by
  cases i <;> cases h
  exact ⟨_, rfl⟩

/-- What an undefined byte can be refused with (R285). -/
theorem execUndefined_refused {b : Byte} {s : State} {r : Refusal} (h : execUndefined b s = .refused r) :
    r = .undefinedOpcode b ∧ suppliedEntry s.params b = none := by
  unfold execUndefined at h
  split at h
  · next hnone =>
    cases h
    exact ⟨rfl, hnone⟩
  · cases h

/-- The only refusal of an instruction is that of an undefined byte without a supplied entry. -/
theorem exec_refused {i : Instr} {s : State} {r : Refusal} (h : exec i s = .refused r) :
    ∃ b, i = .undefined b ∧ r = .undefinedOpcode b ∧ suppliedEntry s.params b = none := by
  cases hop : i.op with
  | some o =>
    rw [exec_of_op hop] at h
    cases h
  | none =>
    obtain ⟨b, rfl⟩ := eq_undefined_of_op_none hop
    exact ⟨b, rfl, execUndefined_refused h⟩

end Machine
end Sys2Proof
end

section
/-! How an event stops: by the cartridge, or as running an instruction does (00_scope.md R11). -/

namespace Sys2Proof.Machine

section
variable {s : State} {r : Refusal}

theorem withCartridge_of_ok (h : cartridgeOk s = true) (x : Result) : withCartridge s x = x := if_pos h

theorem withCartridge_of_bad (h : cartridgeOk s = false) (x : Result) :
    withCartridge s x = .refused .badCartridge := by
  simp [withCartridge, h]

/-- What would have completed is refused for its cartridge alone, which refuses anything else as well. -/
theorem withCartridge_next_refused {t : State} (h : withCartridge s (.next t) = .refused r) (x : Result) :
    withCartridge s x = .refused r := by
  cases hc : cartridgeOk s with
  | true =>
    rw [withCartridge_of_ok hc] at h
    cases h
  | false => rwa [withCartridge_of_bad hc] at h ⊢

/-- On an unsupported cartridge no instruction runs (R73, R76). -/
theorem runInstruction_of_bad (h : cartridgeOk s = false) : runInstruction s = .refused .badCartridge :=
  withCartridge_of_bad h _

/-- With a supported cartridge an instruction is refused only at one of the 74 bytes, without a supplied entry. -/
theorem runInstruction_refused (hc : cartridgeOk s = true) (h : runInstruction s = .refused r) :
    ∃ b ∈ undefinedBytes, r = .undefinedOpcode b ∧ suppliedEntry s.params b = none := by
  rw [runInstruction, withCartridge_of_ok hc] at h
  obtain ⟨b, hi, hr, hentry⟩ := exec_refused h
  exact ⟨b, (decodeBytes_undefined hi).2, hr, hentry⟩

theorem tick_of_bad (h : cartridgeOk s = false) : tick s = .refused .badCartridge := by
  unfold tick
  split
  · rw [runInstruction_of_bad h]
  · exact withCartridge_of_bad h _

theorem tick_refused (h : tick s = .refused r) : runInstruction s = .refused r := by
  unfold tick at h
  split at h
  · cases hrun : runInstruction s with
    | next t => simp [hrun] at h
    | fault f => exact nomatch f
    | refused q => simpa [hrun] using h
  · exact withCartridge_next_refused h _

theorem sysclockTick_of_bad (h : cartridgeOk s = false) : sysclockTick s = .refused .badCartridge := by
  unfold sysclockTick
  split
  · rw [tick_of_bad h]
  · exact withCartridge_of_bad h _

theorem sysclockTick_refused (h : sysclockTick s = .refused r) : runInstruction s = .refused r := by
  unfold sysclockTick at h
  split at h
  · apply tick_refused
    cases htick : tick s with
    | next t => simp [htick] at h
    | fault f => exact nomatch f
    | refused q => simpa [htick] using h
  · exact withCartridge_next_refused h _

/-- Every event is refused on an unsupported cartridge (log entry 13). -/
theorem handleEvent_of_bad (e : Event) (h : cartridgeOk s = false) : handleEvent e s = .refused .badCartridge := by
  cases e with
  | instruction => exact runInstruction_of_bad h
  | tick => exact tick_of_bad h
  | sysclockTick => exact sysclockTick_of_bad h
  | irq | nmi | reset => exact withCartridge_of_bad h _

/-- No event has a refusal of its own: what it is refused with, running an instruction is refused with. -/
theorem handleEvent_refused {e : Event} (h : handleEvent e s = .refused r) : runInstruction s = .refused r := by
  cases e with
  | instruction => exact h
  | tick => exact tick_refused h
  | sysclockTick => exact sysclockTick_refused h
  | irq | nmi | reset => exact withCartridge_next_refused h _

end

/-- Taking the next event off the schedule leaves the cartridge alone. -/
@[simp] theorem nextEvent_cart (s : State) : (nextEvent s).2.cart = s.cart := by
  unfold nextEvent
  split <;> rfl

/-- Taking the next event off the schedule leaves the parameters alone. -/
@[simp] theorem nextEvent_params (s : State) : (nextEvent s).2.params = s.params := by
  unfold nextEvent
  split <;> rfl

@[simp] theorem cartridgeOk_nextEvent (s : State) : cartridgeOk (nextEvent s).2 = cartridgeOk s := by
  rw [cartridgeOk, nextEvent_cart, cartridgeOk]

/-- Settles O51: an event is refused for the cartridge, or else as the instruction at PC is, which only an undefined
byte without a supplied entry is. -/
theorem stepRefusesOnlyByName : Obligations.StepRefusesOnlyByName := by
  intro s
  rw [← cartridgeOk_nextEvent s, ← nextEvent_params s]
  exact ⟨handleEvent_of_bad _, fun hc r h => runInstruction_refused hc (handleEvent_refused h)⟩

end Sys2Proof.Machine
end

section
/-! What an operation may change: storage by stores through the bus alone (20_memory.md R63), and the registers and
flags the tables list for it (10_state.md R20 to R23, R27). -/

namespace Sys2Proof.Machine

/-- The second state's storage and parameters are the first's after some stores through the bus, and nothing else. -/
inductive StoredFrom (s : State) : State → Prop
  | refl : StoredFrom s s
  | store {t : State} (h : StoredFrom s t) (a : Word) (v : Byte) : StoredFrom s (memWrite t a v)
  | same {t u : State} (h : StoredFrom s t) (hu : SameStorage t u) : StoredFrom s u

namespace StoredFrom

variable {s t u : State}

theorem trans (h : StoredFrom s t) (h' : StoredFrom t u) : StoredFrom s u := by
  induction h' with
  | refl => exact h
  | store _ a v ih => exact ih.store a v
  | same _ hu ih => exact ih.same hu

theorem params (h : StoredFrom s t) : t.params = s.params := by
  induction h with
  | refl => rfl
  | store _ a v ih => rw [memWrite_params, ih]
  | same _ hu ih =>
    obtain ⟨-, -, -, -, hparams⟩ := hu
    exact hparams.trans ih

theorem geometry (h : StoredFrom s t) : geometry t = geometry s := by
  induction h with
  | refl => rfl
  | store _ a v ih => rw [geometry_memWrite, ih]
  | same _ hu ih =>
    obtain ⟨-, -, hcart, -, -⟩ := hu
    rw [← ih, Machine.geometry, Machine.geometry, hcart]

theorem chr (h : StoredFrom s t) : t.cart.map Cartridge.chr = s.cart.map Cartridge.chr := by
  induction h with
  | refl => rfl
  | store _ a v ih => rw [chr_memWrite, ih]
  | same _ hu ih =>
    obtain ⟨-, -, hcart, -, -⟩ := hu
    rw [hcart, ih]

/-- Stores through the bus keep the storage sound. -/
theorem storageSound (h : StoredFrom s t) (hs : storageSound s = true) : storageSound t = true := by
  induction h with
  | refl => exact hs
  | store _ a v ih => exact storageSound_memWrite a v ih
  | same _ hu ih => exact hu.storageSound ih

end StoredFrom

/-- Every flag of `P` (R26). -/
def allFlags : List Flag := [.c, .z, .i, .d, .b, .u, .v, .n]

theorem mem_allFlags (f : Flag) : f ∈ allFlags := by cases f <;> decide

/-- A change of the machine that leaves CYC alone, changes storage by stores through the bus alone, and may write the
listed registers and flags, U among the flags, and no others. -/
structure Touches (regs : List Reg) (flags : List Flag) (s t : State) : Prop where
  storage : StoredFrom s t
  cyc : t.cyc = s.cyc
  registers : KeepsRegisters regs s t
  flags : ∀ f, f ∉ flags → t.flag f = s.flag f

namespace Touches

theorem refl (s : State) : Touches [] [] s s :=
  ⟨.refl, rfl, fun _ _ => rfl, fun _ _ => rfl⟩

variable {regs : List Reg} {flags : List Flag} {s t u : State}

/-- One change after another. -/
theorem trans {rs : List Reg} {fs : List Flag} (h : Touches regs flags s t) (h' : Touches rs fs t u) :
    Touches (rs ++ regs) (fs ++ flags) s u where
  storage := h.storage.trans h'.storage
  cyc := h'.cyc.trans h.cyc
  registers r hr := by
    rw [List.mem_append, not_or] at hr
    exact (h'.registers r hr.1).trans (h.registers r hr.2)
  flags f hf := by
    rw [List.mem_append, not_or] at hf
    exact (h'.flags f hf.1).trans (h.flags f hf.2)

/-- Longer lists say less. -/
theorem within {rs : List Reg} {fs : List Flag} (h : Touches regs flags s t) (hr : ∀ r ∈ regs, r ∈ rs)
    (hf : ∀ f ∈ flags, f ∈ fs) : Touches rs fs s t where
  storage := h.storage
  cyc := h.cyc
  registers r h' := h.registers r fun hm => h' (hr r hm)
  flags f h' := h.flags f fun hm => h' (hf f hm)

/-- An update that leaves the storage as it is. -/
theorem update {rs : List Reg} {fs : List Flag} (h : Touches regs flags s t) (hs : SameStorage t u)
    (hcyc : u.cyc = t.cyc) (hr : KeepsRegisters rs t u) (hf : ∀ f, f ∉ fs → u.flag f = t.flag f) :
    Touches (rs ++ regs) (fs ++ flags) s u :=
  h.trans ⟨.same .refl hs, hcyc, hr, hf⟩

/-! One rule per state operation. -/

theorem setA (h : Touches regs flags s t) (v : Byte) : Touches (.a :: regs) flags s (t.setA v) :=
  h.update (rs := [.a]) (fs := []) ⟨rfl, rfl, rfl, rfl, rfl⟩ rfl (fun r hr => by cases r <;> simp_all [State.reg])
    fun _ _ => rfl

theorem setX (h : Touches regs flags s t) (v : Byte) : Touches (.x :: regs) flags s (t.setX v) :=
  h.update (rs := [.x]) (fs := []) ⟨rfl, rfl, rfl, rfl, rfl⟩ rfl (fun r hr => by cases r <;> simp_all [State.reg])
    fun _ _ => rfl

theorem setY (h : Touches regs flags s t) (v : Byte) : Touches (.y :: regs) flags s (t.setY v) :=
  h.update (rs := [.y]) (fs := []) ⟨rfl, rfl, rfl, rfl, rfl⟩ rfl (fun r hr => by cases r <;> simp_all [State.reg])
    fun _ _ => rfl

theorem setSp (h : Touches regs flags s t) (v : Byte) : Touches (.sp :: regs) flags s (t.setSp v) :=
  h.update (rs := [.sp]) (fs := []) ⟨rfl, rfl, rfl, rfl, rfl⟩ rfl (fun r hr => by cases r <;> simp_all [State.reg])
    fun _ _ => rfl

theorem setPc (h : Touches regs flags s t) (v : Word) : Touches regs flags s (t.setPc v) :=
  h.update (rs := []) (fs := []) ⟨rfl, rfl, rfl, rfl, rfl⟩ rfl (fun r _ => by cases r <;> rfl) fun _ _ => rfl

theorem setFlag (h : Touches regs flags s t) (f : Flag) (v : Bool) : Touches regs (f :: flags) s (t.setFlag f v) :=
  h.update (rs := []) (fs := [f]) ⟨rfl, rfl, rfl, rfl, rfl⟩ rfl (fun r _ => by cases r <;> rfl)
    fun g hg => by rw [State.flag_setFlag, if_neg (List.ne_of_not_mem_cons hg)]

/-- Writing the whole status register may change every flag. -/
theorem setP (h : Touches regs flags s t) (v : Byte) : Touches regs (allFlags ++ flags) s (t.setP v) :=
  h.update (rs := []) ⟨rfl, rfl, rfl, rfl, rfl⟩ rfl (fun r _ => by cases r <;> rfl)
    fun f hf => absurd (mem_allFlags f) hf

theorem memWrite (h : Touches regs flags s t) (a : Word) (v : Byte) : Touches regs flags s (memWrite t a v) :=
  h.trans (rs := []) (fs := [])
    ⟨.store .refl a v, by simp, fun r _ => by cases r <;> simp [State.reg], fun f _ => by simp [State.flag]⟩

/-! The shared operations, from the updates they are made of. -/

theorem setZN (h : Touches regs flags s t) (v : Byte) : Touches regs (.n :: .z :: flags) s (t.setZN v) :=
  (h.setFlag .z _).setFlag .n _

theorem compare (h : Touches regs flags s t) (r m : Byte) :
    Touches regs (.n :: .z :: .c :: flags) s (t.compare r m) :=
  ((h.setFlag .c _).setFlag .z _).setFlag .n _

theorem bitTest (h : Touches regs flags s t) (m : Byte) : Touches regs (.v :: .n :: .z :: flags) s (t.bitTest m) :=
  ((h.setFlag .z _).setFlag .n _).setFlag .v _

theorem addWithCarry (h : Touches regs flags s t) (m : Byte) :
    Touches (.a :: regs) (.n :: .v :: .z :: .c :: flags) s (t.addWithCarry m) :=
  ((((h.setFlag .c _).setFlag .z _).setFlag .v _).setFlag .n _).setA _

theorem subtractWithCarry (h : Touches regs flags s t) (m : Byte) :
    Touches (.a :: regs) (.n :: .v :: .z :: .c :: flags) s (t.subtractWithCarry m) :=
  ((((h.setFlag .c _).setFlag .z _).setFlag .v _).setFlag .n _).setA _

/-- The accumulator form writes A, every other form stores a byte. -/
theorem storeResult (h : Touches regs flags s t) (m : Operand) (v : Byte) :
    Touches (.a :: regs) flags s (storeResult t m v) := by
  cases m
  case imp => exact h.setA v
  all_goals exact (h.memWrite t.ea v).within (by simp +contextual) (by simp)

theorem shiftResult (h : Touches regs flags s t) (m : Operand) (r : Byte × Bool) :
    Touches (.a :: regs) (.n :: .z :: .c :: flags) s (shiftResult t m r) :=
  ((h.setFlag .c _).setZN _).storeResult m _

theorem branch (h : Touches regs flags s t) (c : Bool) : Touches regs flags s (branch t c).1 := by
  cases c
  · exact h
  · exact h.setPc _

theorem push (h : Touches regs flags s t) (v : Byte) : Touches (.sp :: regs) flags s (push t v) :=
  (h.memWrite _ v).setSp _

theorem push16 (h : Touches regs flags s t) (v : Word) : Touches (.sp :: .sp :: regs) flags s (push16 t v) :=
  (h.push _).push _

theorem pop (h : Touches regs flags s t) : Touches (.sp :: regs) flags s (pop t).2 := h.setSp _

theorem pop16 (h : Touches regs flags s t) : Touches (.sp :: .sp :: regs) flags s (pop16 t).2 := h.pop.pop

theorem popStatus (h : Touches regs flags s t) :
    Touches (.sp :: regs) (allFlags ++ flags) s (popStatus t) := h.pop.setP _

theorem returnFromHandler (h : Touches regs flags s t) :
    Touches (.sp :: .sp :: .sp :: regs) (allFlags ++ flags) s (returnFromHandler t) :=
  h.popStatus.pop16.setPc _

theorem enterHandler (h : Touches regs flags s t) (vector : Word) (brk : Bool) :
    Touches (.sp :: .sp :: .sp :: regs) (.i :: .b :: .u :: .b :: flags) s (enterHandler t vector brk) :=
  ((((((h.push16 _).setFlag .b brk).setFlag .u true).push _).setFlag .b false).setFlag .i true).setPc _

end Touches

/-- The operations that write U themselves: PHP clears it, the others set it (R28, R247, R248, R265, R268). -/
def uWriters : List Op := [.php, .plp, .brk, .rti]

/-- The registers the tables let an operation write. -/
def writtenRegisters (o : Op) : List Reg := [.a, .x, .y, .sp].filter fun r => o ∈ registerWriters r

/-- The flags the tables let an operation write, and U where it writes U. -/
def writtenFlags (o : Op) : List Flag :=
  allFlags.filter fun f => if f = .u then o ∈ uWriters else o ∈ flagWriters f

theorem mem_writtenRegisters {o : Op} {r : Reg} : r ∈ writtenRegisters o ↔ o ∈ registerWriters r := by
  cases r <;> simp [writtenRegisters]

theorem mem_writtenFlags {o : Op} {f : Flag} (hf : f ≠ .u) : f ∈ writtenFlags o ↔ o ∈ flagWriters f := by
  simp [writtenFlags, mem_allFlags, hf]

theorem u_mem_writtenFlags {o : Op} : .u ∈ writtenFlags o ↔ o ∈ uWriters := by
  simp [writtenFlags, mem_allFlags]

/-- Every operation is confined to the registers and flags the tables list for it. -/
theorem touches_operationOf (o : Op) (m : Operand) (s : State) :
    Touches (writtenRegisters o) (writtenFlags o) s (operationOf o m s).1 := by
  have h := Touches.refl s
  cases o with
  | lda | and | ora | eor | txa | tya => exact ((h.setA _).setZN _).within (by decide) (by decide)
  | ldx | tax | tsx | inx | dex => exact ((h.setX _).setZN _).within (by decide) (by decide)
  | ldy | tay | iny | dey => exact ((h.setY _).setZN _).within (by decide) (by decide)
  | lax => exact (((h.setA _).setX _).setZN _).within (by decide) (by decide)
  | txs => exact (h.setSp _).within (by decide) (by decide)
  | sta | stx | sty | sax => exact (h.memWrite _ _).within (by decide) (by decide)
  | inc | dec => exact ((h.memWrite _ _).setZN _).within (by decide) (by decide)
  | bit => exact (h.bitTest _).within (by decide) (by decide)
  | adc => exact (h.addWithCarry _).within (by decide) (by decide)
  | sbc => exact (h.subtractWithCarry _).within (by decide) (by decide)
  | isb => exact ((h.memWrite _ _).subtractWithCarry _).within (by decide) (by decide)
  | cmp | cpx | cpy => exact (h.compare _ _).within (by decide) (by decide)
  | dcp => exact ((h.memWrite _ _).compare _ _).within (by decide) (by decide)
  | asl | lsr | rol | ror => exact (h.shiftResult m _).within (by decide) (by decide)
  | slo => exact ((((h.memWrite _ _).setFlag .c _).setA _).setZN _).within (by decide) (by decide)
  | bcc | bcs | beq | bne | bmi | bpl | bvc | bvs => exact (h.branch _).within (by decide) (by decide)
  | jmp => exact (h.setPc _).within (by decide) (by decide)
  | jsr => exact ((h.push16 _).setPc _).within (by decide) (by decide)
  | rts => exact (h.pop16.setPc _).within (by decide) (by decide)
  | pha => exact (h.push _).within (by decide) (by decide)
  | pla => exact ((h.pop.setA _).setZN _).within (by decide) (by decide)
  | php => exact (((h.push _).setFlag .b _).setFlag .u _).within (by decide) (by decide)
  | plp => exact h.popStatus.within (by decide) (by decide)
  | clc | sec | cli | sei | cld | sed | clv => exact (h.setFlag _ _).within (by decide) (by decide)
  | brk => exact ((h.setPc _).enterHandler _ _).within (by decide) (by decide)
  | rti => exact h.returnFromHandler.within (by decide) (by decide)
  | nop => exact h.within (by decide) (by decide)

end Sys2Proof.Machine
end

section
/-! What running an entry of the decode table changes: the registers, the flags, U, and the cost in CYC
(40_addressing_modes.md R130, R131). -/

namespace Sys2Proof.Machine

theorem getFlag_or_u (v : Byte) : getFlag (v ||| 0x20) .u = true := by
  simp [getFlag, Flag.bit]

theorem flag_u_enterHandler (s : State) (vector : Word) (brk : Bool) : (enterHandler s vector brk).flag .u = true := by
  obtain ⟨-, -, hflag, -⟩ := enterHandler_spec s vector brk
  simp [hflag]

/-- The most an operation adds to its base count: a page crossing where it pays for one, two cycles for a branch
(R131, R220). -/
def maxExtra (o : Op) : Nat := (if requestsPageCycle o then 1 else 0) + if o.modes = [.rel] then 2 else 0

theorem pageCycle_le (req crossed : Bool) : pageCycle req crossed ≤ if req then 1 else 0 := by
  cases req <;> cases crossed <;> decide

theorem branch_cycles_le (s : State) (c : Bool) : (branch s c).2 ≤ 2 := by
  unfold branch
  dsimp only
  split
  · split <;> omega
  · omega

section
variable (s : State) (base : Nat) (req : Bool) (o : Op) (m : Operand)

/-- Running an entry stores through the bus alone. -/
theorem storedFrom_runEntry : StoredFrom s (runEntry s base req m (operationOf o m)) :=
  ((StoredFrom.refl.same (dispatched_storage s base m)).trans (touches_operationOf o m _).storage).same
    ⟨rfl, rfl, rfl, rfl, rfl⟩

/-- A register no table entry lets the operation write is kept. -/
theorem reg_runEntry {r : Reg} (hr : o ∉ registerWriters r) :
    (runEntry s base req m (operationOf o m)).reg r = s.reg r := by
  have h := (touches_operationOf o m (dispatched s base m)).registers r (mt mem_writtenRegisters.mp hr)
  cases r <;> simpa [runEntry, State.reg] using h

/-- A flag but U that no table entry lets the operation write is kept. -/
theorem flag_runEntry {f : Flag} (hu : f ≠ .u) (hf : o ∉ flagWriters f) :
    (runEntry s base req m (operationOf o m)).flag f = s.flag f := by
  have h := (touches_operationOf o m (dispatched s base m)).flags f (mt (mem_writtenFlags hu).mp hf)
  simpa [runEntry, hu] using h

/-- The dispatch sets U (R28); PLP, BRK and RTI leave it set, PHP clears it, and no other operation writes it. -/
theorem flag_u_runEntry :
    (runEntry s base req m (operationOf o m)).flag .u = decide (o ≠ .php) := by
  change (operationOf o m (dispatched s base m)).1.flag .u = _
  by_cases ho : o ∈ uWriters
  · simp only [uWriters, List.mem_cons, List.not_mem_nil, or_false] at ho
    rcases ho with rfl | rfl | rfl | rfl
    · simp [operationOf, opPhp]
    · exact getFlag_or_u _
    · exact flag_u_enterHandler _ _ _
    · exact getFlag_or_u _
  · rw [(touches_operationOf o m _).flags .u (mt u_mem_writtenFlags.mp ho), flag_dispatched]
    have hphp : o ≠ .php := by rintro rfl; exact ho (by decide)
    simp [hphp]

/-- Only a branch, which has no mode but REL, adds cycles of its own. -/
theorem operationOf_cycles_le : (operationOf o m s).2 ≤ if o.modes = [.rel] then 2 else 0 := by
  cases o
  case bcc | bcs | beq | bne | bmi | bpl | bvc | bvs => exact branch_cycles_le s _
  all_goals exact Nat.zero_le _

theorem cyc_runEntry_le :
    (runEntry s base (requestsPageCycle o) m (operationOf o m)).cyc ≤ base + maxExtra o := by
  have hcyc := (touches_operationOf o m (dispatched s base m)).cyc
  have hextra := operationOf_cycles_le (dispatched s base m) o m
  rw [dispatched_cyc] at hcyc
  have hpage := pageCycle_le (requestsPageCycle o) (crossesPage (beginDispatch s base) m)
  simp only [runEntry, State.setCyc_cyc, hcyc, maxExtra]
  omega
end

/-- A row's base count with everything its operation can add. -/
theorem decodeTable_cost_le : ∀ e ∈ decodeTable, e.cycles + maxExtra e.op ≤ 8 := by decide +kernel

theorem maxExtra_le (o : Op) : maxExtra o ≤ 2 := by cases o <;> decide

/-- With the default base counts no operation in any mode can cost more than 8. -/
theorem baseCycles_add_maxExtra_le {p : Params} (hp : p.baseCycles = []) (o : Op) (m : Mode) :
    baseCycles p o m + maxExtra o ≤ 8 := by
  unfold baseCycles
  cases hb : opcodeOf o m with
  | none =>
    have := maxExtra_le o
    dsimp only
    omega
  | some b =>
    obtain ⟨e, he, rfl, -⟩ := findEntry_opcodeOf hb
    have := decodeTable_cost_le e (findEntry_some he).1
    simpa [baseCyclesAt, hp, defaultBaseCycles, he] using this

/-- PHP is the only instruction with its operation. -/
theorem op_eq_php {i : Instr} : i.op = some .php ↔ i = .php := by
  constructor
  · intro h
    cases i <;> cases h
    rfl
  · rintro rfl
    rfl

/-- Settles O48: the dispatch sets U, and PHP is the one operation that leaves it clear. -/
theorem onlyPhpLeavesUClear : Obligations.OnlyPhpLeavesUClear := by
  intro i s t hop ht
  obtain ⟨o, ho⟩ := Option.ne_none_iff_exists'.mp hop
  rw [exec_of_op ho] at ht
  cases ht
  rw [flag_u_runEntry, ← op_eq_php, ho]
  simp

/-- Settles O49: an operation is confined to the flags the table lists for it. -/
theorem flagsChangeOnlyWhereTheTableSays : Obligations.FlagsChangeOnlyWhereTheTableSays := by
  intro i o s t f ho ht hu hne
  rw [exec_of_op ho] at ht
  cases ht
  by_contra hf
  exact hne (flag_runEntry s _ _ o _ hu hf)

/-- Settles O50: an operation is confined to the registers the rules list for it. -/
theorem registersChangeOnlyWhereTheRulesSay : Obligations.RegistersChangeOnlyWhereTheRulesSay := by
  intro i o s t r ho ht hne
  rw [exec_of_op ho] at ht
  cases ht
  by_contra hr
  exact hne (reg_runEntry s _ _ o _ hr)

end Sys2Proof.Machine
end

section
/-! What an event can do, said once as what it keeps (`handleEvent_keeps`): a step stores through the bus alone
(20_memory.md R63) and keeps CYC within its bound (10_state.md R33), and so the invariant. -/

namespace Sys2Proof.Machine

/-- What completes behind the cartridge check is the outcome checked. -/
theorem withCartridge_next {s t : State} {x : Result} (h : withCartridge s x = .next t) : x = .next t := by
  unfold withCartridge at h
  split at h
  · exact h
  · cases h

/-- An instruction that completes has run an entry of the table, or one `UNDEF_ENTRY` supplies. -/
theorem exec_next {i : Instr} {s t : State} (h : exec i s = .next t) :
    ∃ o m base, t = runEntry s base (requestsPageCycle o) m (operationOf o m) ∧
      (base = baseCycles s.params o m.mode ∨ s.params.undefEntry ≠ []) := by
  cases hop : i.op with
  | some o =>
    rw [exec_of_op hop] at h
    cases h
    exact ⟨o, i.operand, _, rfl, .inl rfl⟩
  | none =>
    obtain ⟨b, rfl⟩ := eq_undefined_of_op_none hop
    change execUndefined b s = .next t at h
    unfold execUndefined at h
    split at h
    · cases h
    · next e he =>
      cases h
      exact ⟨e.op, _, e.cycles, rfl, .inr (List.ne_nil_of_mem (List.mem_of_find?_eq_some he))⟩

section
variable {P : State → Prop} {s t : State} (hs : P s) (hrun : ∀ u, exec (fetchInstr s) s = .next u → P u)
  (hdown : ∀ u, P u → P (countDown u))
include hs hrun hdown

/-- A CPU tick runs the instruction at PC or nothing, then counts down. -/
theorem tick_keeps (h : tick s = .next t) : P t := by
  unfold tick at h
  split at h
  · cases hr : runInstruction s <;> rw [hr] at h <;> cases h
    exact hdown _ (hrun _ (withCartridge_next hr))
  · cases withCartridge_next h
    exact hdown s hs

/-- A SystemClock tick ticks the CPU or not, then counts itself. -/
theorem sysclockTick_keeps (hcount : ∀ u, P u → P (countTick u)) (h : sysclockTick s = .next t) : P t := by
  unfold sysclockTick at h
  split at h
  · cases ht : tick s <;> rw [ht] at h <;> cases h
    exact hcount _ (tick_keeps hs hrun hdown ht)
  · cases withCartridge_next h
    exact hcount s hs

/-- What holds of the state an event finds, of the state after the instruction at PC, after an interrupt entry and
after a reset, and is kept by counting, holds of the state after the event. -/
theorem handleEvent_keeps {e : Event} (hcount : ∀ u, P u → P (countTick u))
    (henter : ∀ vector cycles, cycles ≤ 8 → P (enterInterrupt s vector cycles)) (hreset : P (resetEvent s))
    (h : handleEvent e s = .next t) : P t := by
  cases e with
  | instruction => exact hrun t (withCartridge_next h)
  | tick => exact tick_keeps hs hrun hdown h
  | sysclockTick => exact sysclockTick_keeps hs hrun hdown hcount h
  | irq =>
    cases withCartridge_next h
    unfold irq
    split
    · exact henter _ _ (by decide)
    · exact hs
  | nmi =>
    cases withCartridge_next h
    exact henter _ _ (by decide)
  | reset =>
    cases withCartridge_next h
    exact hreset
end

/-- An interrupt entry stores through the bus alone. -/
theorem storedFrom_enterInterrupt (s : State) (vector : Word) (cycles : Nat) :
    StoredFrom s (enterInterrupt s vector cycles) :=
  ((Touches.refl s).enterHandler vector false).storage.same ⟨rfl, rfl, rfl, rfl, rfl⟩

/-- Whatever the event, a step stores through the bus alone. -/
theorem storedFrom_step {s t : State} (h : step s = .next t) : StoredFrom s t := by
  have hnext : StoredFrom s (nextEvent s).2 := by
    unfold nextEvent
    split
    · exact .refl
    · exact .same .refl ⟨rfl, rfl, rfl, rfl, rfl⟩
  refine hnext.trans (handleEvent_keeps .refl (fun u hu => ?_) (fun u hu => hu.same ⟨rfl, rfl, rfl, rfl, rfl⟩)
    (fun u hu => hu.same ⟨rfl, rfl, rfl, rfl, rfl⟩) (fun v n _ => storedFrom_enterInterrupt _ v n)
    (.same .refl ⟨rfl, rfl, rfl, rfl, rfl⟩) h)
  obtain ⟨o, m, base, rfl, -⟩ := exec_next hu
  exact storedFrom_runEntry _ base _ o m

@[simp] theorem nextEvent_cyc (s : State) : (nextEvent s).2.cyc = s.cyc := by
  unfold nextEvent
  split <;> rfl

/-- With the default counts and no supplied entry an instruction leaves at most 8 in CYC. -/
theorem exec_cyc_le {i : Instr} {s t : State} (hb : s.params.baseCycles = []) (hu : s.params.undefEntry = [])
    (h : exec i s = .next t) : t.cyc ≤ 8 := by
  obtain ⟨o, m, base, rfl, hbase⟩ := exec_next h
  obtain rfl := hbase.resolve_right (not_not_intro hu)
  exact (cyc_runEntry_le s _ o m).trans (baseCycles_add_maxExtra_le hb o m.mode)

/-- With the default counts and no supplied entry a step keeps CYC at most 8 (R33). -/
theorem step_cyc_le {s t : State} (hb : s.params.baseCycles = []) (hu : s.params.undefEntry = []) (hs : s.cyc ≤ 8)
    (h : step s = .next t) : t.cyc ≤ 8 := by
  rw [← nextEvent_params] at hb hu
  rw [← nextEvent_cyc] at hs
  exact handleEvent_keeps (P := fun u => u.cyc ≤ 8) hs (fun _ => exec_cyc_le hb hu)
    (fun u hu => (Nat.sub_le u.cyc 1).trans hu) (fun _ hu => hu) (fun _ _ hn => hn) (Nat.le_refl 8) h

theorem cyclesSound_iff {s : State} :
    cyclesSound s = true ↔ (s.params.baseCycles = [] → s.params.undefEntry = [] → s.cyc ≤ 8) := by
  simp only [cyclesSound, Bool.or_eq_true, bne_iff_ne, decide_eq_true_eq]
  tauto

/-- Settles O52: stores through the bus keep the storage sound, and a step keeps CYC within its bound. -/
theorem stepKeepsTheInvariant : Obligations.StepKeepsTheInvariant := by
  intro s t ⟨hstorage, hcycles⟩ h
  have hst := storedFrom_step h
  refine ⟨hst.storageSound hstorage, cyclesSound_iff.mpr fun hb hu => ?_⟩
  rw [hst.params] at hb hu
  exact step_cyc_le hb hu (cyclesSound_iff.mp hcycles hb hu) h

/-- Settles O54: stores through the bus change neither geometry nor parameters nor CHR. -/
theorem geometryAndParametersNeverChange : Obligations.GeometryAndParametersNeverChange := by
  intro s t h
  have hst := storedFrom_step h
  exact ⟨hst.geometry, hst.params, hst.chr⟩

/-- Settles O53: empty storage is sound, and reset leaves 8 in CYC. -/
theorem resetMeetsTheInvariant : Obligations.ResetMeetsTheInvariant :=
  ⟨storageSound_reset, by decide⟩

/-- With nothing attached and nothing written the reset vector reads 0x0000 (log entries 3 and 5). -/
theorem memRead16_resetVector_reset : memRead16 State.reset Config.resetVector = 0x0000 := by decide

/-- The reset event on the memory of `State.reset` gives `State.reset`, whatever the registers hold. -/
theorem resetEvent_of_reset_memory (a x y sp p fetched : Byte) (pc ea rel : Word) (cyc : Nat) :
    resetEvent { State.reset with a, x, y, sp, p, fetched, pc, ea, rel, cyc } = State.reset := by
  let s : State := { State.reset with a, x, y, sp, p, fetched, pc, ea, rel, cyc }
  have hs : SameStorage State.reset s := ⟨rfl, rfl, rfl, rfl, rfl⟩
  have hpc : memRead16 s Config.resetVector = 0x0000 := by
    rw [memRead16, hs.memRead, hs.memRead]
    exact memRead16_resetVector_reset
  change { State.reset with pc := memRead16 s Config.resetVector } = State.reset
  rw [hpc]
  rfl

/-- Settles O40: the reset event reads the vector from memory and assigns every register. -/
theorem resetStateIsTheStateAfterReset : Obligations.ResetStateIsTheStateAfterReset :=
  ⟨resetEvent_of_reset_memory .., resetEvent_of_reset_memory, rfl, rfl, rfl, rfl⟩

end Sys2Proof.Machine
end

section
/-! The address map: the storage byte each range of addresses reaches (20_memory.md R61, R65 to R68, R71), and what a
read and a write at a storage byte do. -/

namespace Sys2Proof.Machine

variable {s : State} {c : Cartridge} {a b : Word} {p : Storage}

theorem Cartridge.supported_of_cartridgeOk (hok : cartridgeOk s = true) (hc : s.cart = some c) :
    c.supported = true := by
  simpa [cartridgeOk, hc] using hok

/-- The size of the window through which a cartridge's PRG is seen: mirrored with one bank (R71). -/
def prgWindow (c : Cartridge) : Nat := if c.prgBanks = 1 then 16384 else 32768

/-- From 0x8000 on Mapper0 answers the address modulo the window (R71). -/
theorem cpuMap_high (hs : c.supported = true) (h : 0x8000 ≤ a.toNat) :
    cpuMap c a = some (BitVec.ofNat 32 (a.toNat % prgWindow c)) := by
  have hle : (0x8000 : Word) ≤ a := h
  have h14 : (a &&& 0x3FFF).toNat = a.toNat % 16384 :=
    (BitVec.toNat_and ..).trans (Nat.and_two_pow_sub_one_eq_mod a.toNat 14)
  have h15 : (a &&& 0x7FFF).toNat = a.toNat % 32768 :=
    (BitVec.toNat_and ..).trans (Nat.and_two_pow_sub_one_eq_mod a.toNat 15)
  unfold cpuMap prgWindow
  rw [if_neg (by simp [hs]), if_pos hle]
  split
  · rw [← h14, BitVec.ofNat_toNat]
  · rw [← h15, BitVec.ofNat_toNat]

/-- Below 0x8000, and without a cartridge, the mapper claims nothing. -/
theorem cpuMap_unclaimed (h : a.toNat < 0x8000 ∨ s.cart = none) : (s.cart.bind fun c => cpuMap c a) = none := by
  cases hc : s.cart with
  | none => rfl
  | some c => exact cpuMap_low c (h.resolve_right (by simp [hc]))

/-- With a supported cartridge an address from 0x8000 on reaches PRG (R71). -/
theorem locate_prg (hc : s.cart = some c) (hs : c.supported = true) (h : 0x8000 ≤ a.toNat) :
    locate s a = .prg (a.toNat % prgWindow c) := by
  have hlt : a.toNat % prgWindow c < 2 ^ 32 := by
    have := Nat.mod_le a.toNat (prgWindow c)
    omega
  simp only [locate, hc, Option.bind_some, cpuMap_high hs h, BitVec.toNat_ofNat, Nat.mod_eq_of_lt hlt]

/-- An address from 0x2000 to 0x3FFF reaches a PPU register, whatever cartridge is attached (R66). -/
theorem locate_ppureg (s : State) (hlo : 0x2000 ≤ a.toNat) (hhi : a.toNat ≤ 0x3FFF) :
    locate s a = .ppureg (a.toNat % 8) := by
  have hram : ¬ a ≤ (0x1FFF : Word) := Nat.not_le.mpr hlo
  have hppu : a ≤ (0x3FFF : Word) := hhi
  have hmask : (a &&& 0x0007).toNat = a.toNat % 8 :=
    (BitVec.toNat_and ..).trans (Nat.and_two_pow_sub_one_eq_mod a.toNat 3)
  simp only [locate, cpuMap_unclaimed (.inl (by omega : a.toNat < 0x8000)), if_neg hram, if_pos hppu, hmask]

/-- An address from 0x4000 on that no cartridge claims is left to the policy for unclaimed addresses (R67, R68). -/
theorem locate_unclaimed (hlo : 0x4000 ≤ a.toNat) (h : a.toNat ≤ 0x7FFF ∨ s.cart = none) :
    locate s a = if s.params.unclaimed = .zeroDrop then .dropped else .back a.toNat := by
  have hram : ¬ a ≤ (0x1FFF : Word) := Nat.not_le.mpr (by change 0x1FFF < a.toNat; omega)
  have hppu : ¬ a ≤ (0x3FFF : Word) := Nat.not_le.mpr hlo
  simp only [locate, cpuMap_unclaimed (h.imp_left Nat.lt_succ_of_le), if_neg hram, if_neg hppu]
  cases s.params.unclaimed <;> rfl

theorem memRead_of_locate (h : locate s a = p) : memRead s a = readStorage s p := by rw [memRead, h]

theorem memWrite_of_locate (h : locate s a = p) (v : Byte) : memWrite s a v = writeStorage s p v := by
  rw [memWrite, h]

/-- The storage byte an address reaches holds what was written to the address. -/
theorem readStorage_memWrite (h : locate s a = p) (hp : p ≠ .dropped) (v : Byte) :
    readStorage (memWrite s a v) p = v := by
  rw [memWrite_of_locate h, readStorage_writeStorage s p p v, if_pos ⟨rfl, hp⟩]
  rintro off rfl hc
  exact locate_ne_prg hc a off h

/-- A byte written at one address is read at every address of the same storage byte. -/
theorem memRead_memWrite_of_locate (ha : locate s a = p) (hb : locate s b = p) (hp : p ≠ .dropped) (v : Byte) :
    memRead (memWrite s a v) b = v := by
  rw [memRead, locate_memWrite, hb, readStorage_memWrite ha hp]

/-- A write that reaches PRG leaves the cartridge attached, with the byte at its offset. -/
theorem cart_memWrite_prg {off : Nat} (hc : s.cart = some c) (h : locate s a = .prg off) (v : Byte) :
    ∃ d, (memWrite s a v).cart = some d ∧ d.prg.read off = v := by
  refine ⟨{ c with prg := c.prg.write off v }, ?_, ?_⟩
  · rw [memWrite_of_locate h, writeStorage, State.setCart_cart, hc, Option.map_some]
  · rw [Memory.read_write, if_pos rfl]

theorem memRead_prg {off : Nat} (hc : s.cart = some c) (h : locate s a = .prg off) :
    memRead s a = c.prg.read off := by
  simp only [memRead, h, readStorage, hc]

/-- Settles O41: each range of addresses reaches its storage byte, and a read and a write there touch that byte. -/
theorem busDecoderFollowsTheAddressMap : Obligations.BusDecoderFollowsTheAddressMap := by
  intro s a hok
  refine ⟨fun h => ?_, fun hlo hhi => ?_, fun hlo hfree => ⟨fun hp => ?_, fun hp => ?_⟩, fun c hc h => ?_,
    fun c _ h => cpuMap_low c h⟩
  · have hl := locate_ram s h
    exact ⟨hl, memRead_of_locate hl, readStorage_memWrite hl (by simp)⟩
  · have hl := locate_ppureg s hlo hhi
    exact ⟨hl, memRead_of_locate hl, readStorage_memWrite hl (by simp)⟩
  · have hl : locate s a = .dropped := (locate_unclaimed hlo hfree).trans (if_pos hp)
    exact ⟨hl, memRead_of_locate hl, memWrite_of_locate hl⟩
  · have hl : locate s a = .back a.toNat := (locate_unclaimed hlo hfree).trans (if_neg (by simp [hp]))
    exact ⟨hl, memRead_of_locate hl, readStorage_memWrite hl (by simp)⟩
  · have hs := Cartridge.supported_of_cartridgeOk hok hc
    have hl := locate_prg hc hs h
    exact ⟨hl, cpuMap_high hs h, memRead_prg hc hl, cart_memWrite_prg hc hl⟩

/-- The mirrors of a RAM byte (R65). -/
theorem locate_ram_mirror (s : State) {i j : Nat} (hi : i < 2048) (hj : j < 4) :
    locate s (BitVec.ofNat 16 (i + 2048 * j)) = .ram i := by
  have ha : (BitVec.ofNat 16 (i + 2048 * j)).toNat = i + 2048 * j := Nat.mod_eq_of_lt (by omega)
  rw [locate_ram s (by omega), ha, Nat.add_mul_mod_self_left, Nat.mod_eq_of_lt hi]

/-- The mirrors of a PPU register (R66). -/
theorem locate_ppureg_mirror (s : State) {i j : Nat} (hi : i < 8) (hj : j < 1024) :
    locate s (BitVec.ofNat 16 (0x2000 + i + 8 * j)) = .ppureg i := by
  have ha : (BitVec.ofNat 16 (0x2000 + i + 8 * j)).toNat = 0x2000 + i + 8 * j :=
    Nat.mod_eq_of_lt (by omega)
  rw [locate_ppureg s (by omega) (by omega), ha]
  congr 1
  omega

/-- The two mirrors of a byte of PRG with one bank (R72). -/
theorem locate_prg_mirror (hc : s.cart = some c) (hs : c.supported = true) (hbank : c.prgBanks = 1) {i j : Nat}
    (hi : i < 16384) (hj : j < 2) : locate s (BitVec.ofNat 16 (0x8000 + i + 16384 * j)) = .prg i := by
  have ha : (BitVec.ofNat 16 (0x8000 + i + 16384 * j)).toNat = 0x8000 + i + 16384 * j :=
    Nat.mod_eq_of_lt (by omega)
  rw [locate_prg hc hs (by omega), ha, prgWindow, if_pos hbank]
  congr 1
  omega

/-- Settles O42: all mirrors of an address reach one storage byte. -/
theorem storesAreVisibleAtEveryMirror : Obligations.StoresAreVisibleAtEveryMirror := by
  intro s v hok
  refine ⟨fun i j k hi hj hk => ?_, fun i j k hi hj hk => ?_, fun c hc hbank i j k hi hj hk => ?_⟩
  · exact memRead_memWrite_of_locate (locate_ram_mirror s hi hj) (locate_ram_mirror s hi hk) (by simp) v
  · exact memRead_memWrite_of_locate (locate_ppureg_mirror s hi hj) (locate_ppureg_mirror s hi hk) (by simp) v
  · have hs := Cartridge.supported_of_cartridgeOk hok hc
    exact memRead_memWrite_of_locate (locate_prg_mirror hc hs hbank hi hj) (locate_prg_mirror hc hs hbank hi hk)
      (by simp) v

end Sys2Proof.Machine
end

section
/-! The PPU side: what Mapper0 answers there (20_memory.md R78, R79) and the port to CHR (R80, R81). -/

namespace Sys2Proof.Machine

variable {s : State} {c : Cartridge} {a : Word}

/-- Mapper0 claims the PPU-side reads up to 0x1FFF (R78). -/
theorem ppuMapRead_eq (hs : c.supported = true) (a : Word) :
    ppuMapRead c a = if a.toNat ≤ 0x1FFF then some (a.setWidth 32) else none := by
  have hle : a ≤ (0x1FFF : Word) ↔ a.toNat ≤ 0x1FFF := Iff.rfl
  simp only [ppuMapRead, hs, hle, Bool.true_and, decide_eq_true_eq]

/-- Without a CHR bank Mapper0 claims the PPU-side writes up to 0x1FFF, with one none (R79). -/
theorem ppuMapWrite_eq (hs : c.supported = true) (a : Word) :
    ppuMapWrite c a = if a.toNat ≤ 0x1FFF ∧ c.chrBanks = 0 then some (a.setWidth 32) else none := by
  have hle : a ≤ (0x1FFF : Word) ↔ a.toNat ≤ 0x1FFF := Iff.rfl
  simp only [ppuMapWrite, hs, hle, Bool.true_and, Bool.and_eq_true, decide_eq_true_eq]

/-- A PPU-side offset is the address, without a mask. -/
theorem toNat_chrOffset (a : Word) : (a.setWidth 32).toNat = a.toNat :=
  BitVec.toNat_setWidth_of_le (by decide)

/-- There are 0x2000 bytes of CHR at least (R38). -/
theorem le_chrSize (n : Nat) : 0x2000 ≤ chrSize n := by
  unfold chrSize Config.chrBankSize
  split <;> omega

/-- The mapper's PPU side answers an offset inside CHR. -/
theorem ppuMapRead_lt {off : Offset} (hs : c.supported = true) (h : ppuMapRead c a = some off) :
    off.toNat < chrSize c.chrBanks := by
  rw [ppuMapRead_eq hs] at h
  split at h
  · next hle =>
    cases h
    have := le_chrSize c.chrBanks
    rw [toNat_chrOffset]
    omega
  · cases h

theorem ppuMapRead_of_ppuMapWrite {off : Offset} (hs : c.supported = true) (h : ppuMapWrite c a = some off) :
    ppuMapRead c a = some off := by
  rw [ppuMapWrite_eq hs] at h
  split at h
  · next hclaimed => rwa [ppuMapRead_eq hs, if_pos hclaimed.1]
  · cases h

/-- Settles O43: each mapper function answers inside its array. -/
theorem mapperOffsetsStayInBounds : Obligations.MapperOffsetsStayInBounds := fun _ _ hs =>
  ⟨fun _ => cpuMap_lt, fun _ => ppuMapRead_lt hs, fun _ h => ppuMapRead_lt hs (ppuMapRead_of_ppuMapWrite hs h)⟩

/-- The cartridge with one byte of CHR changed. -/
def Cartridge.writeChr (c : Cartridge) (i : Nat) (v : Byte) : Cartridge := { c with chr := c.chr.write i v }

/-- What a PPU-side read answers (R80, R81). -/
theorem ppuRead_eq (hc : s.cart = some c) (hs : c.supported = true) (a : Word) :
    ppuRead s a = if a.toNat ≤ 0x1FFF then .next (c.chr.read a.toNat) else .refused (.ppuUnclaimed a) := by
  by_cases h : a.toNat ≤ 0x1FFF
  · simp only [ppuRead, hc, ppuMapRead_eq hs, if_pos h, toNat_chrOffset]
  · simp only [ppuRead, hc, ppuMapRead_eq hs, if_neg h]

/-- What a PPU-side write does (R80, R81). -/
theorem ppuWrite_eq (hc : s.cart = some c) (hs : c.supported = true) (a : Word) (v : Byte) :
    ppuWrite s a v = if a.toNat ≤ 0x1FFF ∧ c.chrBanks = 0 then .next (s.setCart (some (c.writeChr a.toNat v)))
      else .refused (.ppuUnclaimed a) := by
  by_cases h : a.toNat ≤ 0x1FFF ∧ c.chrBanks = 0
  · simp only [ppuWrite, hc, ppuMapWrite_eq hs, if_pos h, toNat_chrOffset, Cartridge.writeChr]
  · simp only [ppuWrite, hc, ppuMapWrite_eq hs, if_neg h]

/-- The PPU side after a byte of CHR changed: that byte at its index, the rest as before. -/
theorem ppuRead_writeChr (hs : c.supported = true) (s : State) (i : Nat) (v : Byte) (b : Word) :
    ppuRead (s.setCart (some (c.writeChr i v))) b =
      if b.toNat ≤ 0x1FFF then .next (if b.toNat = i then v else c.chr.read b.toNat)
      else .refused (.ppuUnclaimed b) := by
  rw [← Memory.read_write]
  exact ppuRead_eq (c := c.writeChr i v) rfl hs b

/-- A byte of CHR changed is not seen on the CPU side. -/
theorem memRead_writeChr (hc : s.cart = some c) (i : Nat) (v : Byte) (b : Word) :
    memRead (s.setCart (some (c.writeChr i v))) b = memRead s b := by
  have hl : locate (s.setCart (some (c.writeChr i v))) b = locate s b := by
    have hmap : cpuMap (c.writeChr i v) b = cpuMap c b := cpuMap_congr rfl rfl b
    simp only [locate, State.setCart_cart, State.setCart_params, hc, Option.bind_some, hmap]
  rw [memRead, hl, memRead]
  cases locate s b with
  | prg off => simp only [readStorage, State.setCart_cart, hc, Cartridge.writeChr]
  | ram i | ppureg i | back i | dropped => rfl

/-- Settles O44: with the cartridge's one byte of CHR written, the port reads it back and nothing else differs. -/
theorem ppuPortReachesChr : Obligations.PpuPortReachesChr := by
  intro s c a hc hs
  have hread := ppuRead_eq hc hs
  have hwrite := ppuWrite_eq hc hs a
  refine ⟨fun h => (hread a).trans (if_pos h), fun h => (hread a).trans (if_neg (Nat.not_le.mpr h)),
    fun v h hbank => ⟨_, (hwrite v).trans (if_pos ⟨h, hbank⟩), ?_, fun b hb => ?_, memRead_writeChr hc _ v⟩,
    fun v h => (hwrite v).trans (if_neg (by omega))⟩
  · rw [ppuRead_writeChr hs, if_pos h, if_pos rfl]
  · rw [ppuRead_writeChr hs, hread b, if_neg (mt BitVec.eq_of_toNat_eq hb)]

end Sys2Proof.Machine
end

section
/-! The two directions of the encoding: an instruction is determined by its operation and its operand form, the opcode
byte gives the operation and the mode (30_encoding.md R105, R108), and the bytes after it the operand form (R101). -/

namespace Sys2Proof

/-! Operand forms and their bytes. -/

@[simp] theorem Operand.mode_ofBytes (m : Mode) (b1 b2 : Byte) : (Operand.ofBytes m b1 b2).mode = m := by
  cases m <;> rfl

/-- The bytes of the operand form read after an opcode byte are the first of those bytes, as many as its mode has. -/
theorem Operand.bytes_ofBytes (m : Mode) (b1 b2 : Byte) :
    (Operand.ofBytes m b1 b2).bytes = [b1, b2].take m.operandBytes := by
  cases m <;> rfl

theorem Operand.length_bytes (m : Operand) : m.bytes.length = m.mode.operandBytes := by
  cases m <;> rfl

/-- An operand form is read back from its bytes, whatever bytes follow them. -/
theorem Operand.ofBytes_bytes_append (m : Operand) (rest : List Byte) :
    Operand.ofBytes m.mode ((m.bytes ++ rest).getD 0 0) ((m.bytes ++ rest).getD 1 0) = m := by
  cases m <;> rfl

/-! Instructions by their operation and operand form. -/

/-- The instruction built for an operation in a mode it has carries the operand form of the bytes. -/
theorem Instr.operand_build {o : Op} {m : Mode} (h : m ∈ o.modes) (b1 b2 : Byte) :
    (Instr.build o m b1 b2).operand = Operand.ofBytes m b1 b2 := by
  cases o
  case lda | ldx | ldy | sta | stx | sty | and | ora | eor | bit | adc | sbc | cmp | cpx | cpy | inc | dec | asl | lsr
    | rol | ror | jmp | lax | sax | dcp | isb | slo => rfl
  all_goals
    obtain rfl := List.mem_singleton.mp h
    rfl

/-- Every instruction is rebuilt from its parts. -/
theorem Laws.Rebuild.statement : ∀ i, Statement i
  | .lda m => lda m | .ldx m => ldx m | .ldy m => ldy m | .sta m => sta m | .stx m => stx m | .sty m => sty m
  | .and m => and m | .ora m => ora m | .eor m => eor m | .bit m => bit m | .adc m => adc m | .sbc m => sbc m
  | .cmp m => cmp m | .cpx m => cpx m | .cpy m => cpy m | .inc m => inc m | .dec m => dec m | .asl m => asl m
  | .lsr m => lsr m | .rol m => rol m | .ror m => ror m | .jmp m => jmp m | .lax m => lax m | .sax m => sax m
  | .dcp m => dcp m | .isb m => isb m | .slo m => slo m | .bcc off => bcc off | .bcs off => bcs off
  | .beq off => beq off | .bne off => bne off | .bmi off => bmi off | .bpl off => bpl off | .bvc off => bvc off
  | .bvs off => bvs off | .jsr lo hi => jsr lo hi | .tax => tax | .tay => tay | .txa => txa | .tya => tya
  | .tsx => tsx | .txs => txs | .inx => inx | .iny => iny | .dex => dex | .dey => dey | .rts => rts | .pha => pha
  | .pla => pla | .php => php | .plp => plp | .clc => clc | .sec => sec | .cli => cli | .sei => sei | .cld => cld
  | .sed => sed | .clv => clv | .brk => brk | .rti => rti | .nop => nop | .undefined b => undefined b

/-- Operation and operand form determine the instruction. -/
theorem Instr.eq_of_op_of_operand {i j : Instr} {o : Op} (hi : i.op = some o) (hj : j.op = some o)
    (h : i.operand = j.operand) : i = j := by
  have hi' := Laws.Rebuild.statement i
  have hj' := Laws.Rebuild.statement j
  simp only [Laws.Rebuild.Statement, hi] at hi'
  simp only [Laws.Rebuild.Statement, hj] at hj'
  rw [← hi', h, hj']

/-- An instruction with an operation is well-formed when the operation has the mode of its operand form (R149). -/
theorem Instr.wf_of_op {i : Instr} {o : Op} (h : i.op = some o) : i.wf = true ↔ i.operand.mode ∈ o.modes := by
  rw [← List.contains_iff_mem]
  cases i <;> cases h <;> rfl

theorem Instr.wf_undefined (b : Byte) : (Instr.undefined b).wf = true ↔ b ∈ undefinedBytes :=
  List.contains_iff_mem

/-- The opcode byte of an instruction is that of its operation in the mode of its operand form. -/
theorem Instr.opcode_of_op {i : Instr} {o : Op} (h : i.op = some o) : i.opcode = opcodeOf o i.operand.mode := by
  cases i <;> cases h <;> rfl

/-! The decode table. -/

/-- An operation in a mode it has stands in a row of the table, found at the row's byte. -/
theorem exists_row {o : Op} {m : Mode} (h : m ∈ o.modes) :
    ∃ e, findEntry e.opcode = some e ∧ e.op = o ∧ e.mode = m := by
  obtain ⟨b, hb⟩ := Option.isSome_iff_exists.mp (List.all_eq_true.mp (opcodeOf_isSome o) m h)
  obtain ⟨e, he, ho, hm⟩ := findEntry_opcodeOf hb
  obtain ⟨-, rfl, -, -⟩ := findEntry_some he
  exact ⟨e, he, ho, hm⟩

section
variable {b0 : Byte} {e : DecodeEntry}

theorem lengthAt_of_some (h : findEntry b0 = some e) : lengthAt b0 = 1 + e.mode.operandBytes := by
  rw [lengthAt, h]

theorem lengthAt_of_none (h : findEntry b0 = none) : lengthAt b0 = 1 := by
  rw [lengthAt, h]

/-- The instruction read at a byte with a row: the row's operation, and the operand form of its mode. -/
theorem decodeBytes_of_some (h : findEntry b0 = some e) (b1 b2 : Byte) :
    (decodeBytes b0 b1 b2).op = some e.op ∧ (decodeBytes b0 b1 b2).operand = Operand.ofBytes e.mode b1 b2 := by
  obtain ⟨-, -, -, hmode⟩ := findEntry_some h
  rw [decodeBytes, h]
  exact ⟨Instr.op_build .., Instr.operand_build hmode b1 b2⟩

theorem decodeBytes_of_none (h : findEntry b0 = none) (b1 b2 : Byte) : decodeBytes b0 b1 b2 = .undefined b0 := by
  rw [decodeBytes, h]

/-- The encoding of a row's operation in the row's mode begins with the row's byte. -/
theorem encode_of_row {i : Instr} (h : findEntry b0 = some e) (hop : i.op = some e.op)
    (hmode : i.operand.mode = e.mode) : encode i = b0 :: i.operand.bytes := by
  obtain ⟨-, -, hbyte, -⟩ := findEntry_some h
  rw [encode, Instr.opcode_of_op hop, hmode, hbyte]

/-- Where the operand bytes are there, the decoder takes the opcode byte and them and leaves the rest. -/
theorem decode_append {bytes : List Byte} (h : lengthAt b0 = 1 + bytes.length) (rest : List Byte) :
    decode (b0 :: (bytes ++ rest)) =
      .ok (decodeBytes b0 ((bytes ++ rest).getD 0 0) ((bytes ++ rest).getD 1 0), rest) := by
  have hlong : ¬ (bytes ++ rest).length + 1 < lengthAt b0 := by
    rw [h, List.length_append]
    omega
  rw [decode, if_neg hlong, h, Nat.add_comm, List.drop_succ_cons, List.drop_left]

end

/-! The obligations. -/

/-- Settles O1: the opcode byte finds the row of the operation and mode, and the operand form is read back from its
bytes. -/
theorem decodeInvertsEncode : Obligations.DecodeInvertsEncode := by
  intro i rest hwf
  cases hop : i.op with
  | some o =>
    obtain ⟨e, he, rfl, hmode⟩ := exists_row ((Instr.wf_of_op hop).mp hwf)
    have hlength : lengthAt e.opcode = 1 + i.operand.bytes.length := by
      rw [lengthAt_of_some he, Operand.length_bytes, hmode]
    obtain ⟨hop', hoperand⟩ := decodeBytes_of_some he ((i.operand.bytes ++ rest).getD 0 0)
      ((i.operand.bytes ++ rest).getD 1 0)
    rw [hmode, Operand.ofBytes_bytes_append] at hoperand
    rw [encode_of_row he hop hmode.symm, List.cons_append, decode_append hlength,
      Instr.eq_of_op_of_operand hop' hop hoperand]
  | none =>
    obtain ⟨b, rfl⟩ := Machine.eq_undefined_of_op_none hop
    have hnone := (findEntry_none_iff b).mpr ((Instr.wf_undefined b).mp hwf)
    have hdecode := decode_append (bytes := []) (lengthAt_of_none hnone) rest
    rwa [decodeBytes_of_none hnone] at hdecode

/-- Settles O2: the row's byte is the only one of its operation and mode. -/
theorem encodeReturnsTheBytesRead : Obligations.EncodeReturnsTheBytesRead := by
  intro b0 b1 b2
  cases he : findEntry b0 with
  | some e =>
    obtain ⟨hop, hoperand⟩ := decodeBytes_of_some he b1 b2
    rw [encode_of_row he hop (by rw [hoperand, Operand.mode_ofBytes]), hoperand, Operand.bytes_ofBytes,
      lengthAt_of_some he, Nat.add_comm, List.take_succ_cons]
  | none =>
    rw [decodeBytes_of_none he, lengthAt_of_none he]
    rfl

/-- Settles O3: a row's mode is one its operation has, and a byte without a row is one of the 74. -/
theorem decodedInstructionsAreWellFormed : Obligations.DecodedInstructionsAreWellFormed := by
  intro b0 b1 b2
  cases he : findEntry b0 with
  | some e =>
    obtain ⟨hop, hoperand⟩ := decodeBytes_of_some he b1 b2
    obtain ⟨-, -, -, hmode⟩ := findEntry_some he
    rwa [Instr.wf_of_op hop, hoperand, Operand.mode_ofBytes]
  | none =>
    rw [decodeBytes_of_none he, Instr.wf_undefined]
    exact (findEntry_none_iff b0).mp he

/-- Settles O4: the decoder evaluated at each word. -/
theorem specWordsDecode : Obligations.SpecWordsDecode := by
  unfold Obligations.SpecWordsDecode
  and_intros <;> rfl

end Sys2Proof
end

section
/-! The least cost of an instruction: its row's base count, to which an operation can only add
(40_addressing_modes.md R131). -/

namespace Sys2Proof.Machine

/-- The page-crossing cycle is requested by the operations rule R145 lists. -/
theorem requestsPageCycle_iff (o : Op) : requestsPageCycle o = true ↔
    o ∈ ([.lda, .ldx, .ldy, .and, .ora, .eor, .adc, .sbc, .cmp, .lax] : List Op) := by
  cases o <;> decide

/-- Running an entry costs its base count at least. -/
theorem le_cyc_runEntry (s : State) (base : Nat) (req : Bool) (o : Op) (m : Operand) :
    base ≤ (runEntry s base req m (operationOf o m)).cyc := by
  have hcyc := (touches_operationOf o m (dispatched s base m)).cyc
  rw [dispatched_cyc] at hcyc
  simp only [runEntry, State.setCyc_cyc, hcyc]
  omega

theorem decodeTable_two_le_cycles : ∀ e ∈ decodeTable, 2 ≤ e.cycles := by decide +kernel

/-- With the default base counts an operation in a mode it has costs 2 at least. -/
theorem two_le_baseCycles {p : Params} (hp : p.baseCycles = []) {o : Op} {m : Mode} (h : m ∈ o.modes) :
    2 ≤ baseCycles p o m := by
  obtain ⟨e, he, rfl, rfl⟩ := exists_row h
  obtain ⟨hmem, -, hbyte, -⟩ := findEntry_some he
  have hcycles : baseCycles p e.op e.mode = e.cycles := by
    simp [baseCycles, hbyte, baseCyclesAt, hp, defaultBaseCycles, he]
  rw [hcycles]
  exact decodeTable_two_le_cycles e hmem

/-- Settles O47: the cost is the row's base count, 2 at least, with what the operation adds, 8 at most. -/
theorem costsLieBetweenTwoAndEight : Obligations.CostsLieBetweenTwoAndEight := by
  refine ⟨requestsPageCycle_iff, fun i s t hwf hop hp ht => ?_⟩
  obtain ⟨o, ho⟩ := Option.ne_none_iff_exists'.mp hop
  rw [exec_of_op ho] at ht
  cases ht
  exact ⟨(two_le_baseCycles hp ((Instr.wf_of_op ho).mp hwf)).trans (le_cyc_runEntry s _ _ o _),
    (cyc_runEntry_le s _ o _).trans (baseCycles_add_maxExtra_le hp o _)⟩

end Sys2Proof.Machine
end

section
/-! The addresses the modes compute, in numbers, and the carry their indexing reports (40_addressing_modes.md R133 to
R144). -/

namespace Sys2Proof.Machine

@[simp] theorem toNat_zext16 (b : Byte) : (zext16 b).toNat = b.toNat :=
  BitVec.toNat_setWidth_of_le (by decide)

/-- An address given as a byte is the address of that number. -/
theorem zext16_eq_ofNat (b : Byte) : zext16 b = BitVec.ofNat 16 b.toNat := by
  rw [← toNat_zext16, BitVec.ofNat_toNat, BitVec.setWidth_eq]

theorem word_eq_ofNat (hi lo : Byte) : word hi lo = BitVec.ofNat 16 (256 * hi.toNat + lo.toNat) := by
  rw [← word_toNat, BitVec.ofNat_toNat, BitVec.setWidth_eq]

theorem loByte_word (hi lo : Byte) : loByte (word hi lo) = lo := by
  apply BitVec.eq_of_toNat_eq
  rw [loByte_toNat, word_toNat]
  omega

/-- Adding an index to a zero-page address stays in page 0 (R135, R136, R142). -/
theorem toNat_zext16_add (b i : Byte) : (zext16 (b + i)).toNat = (b.toNat + i.toNat) % 256 := by
  rw [toNat_zext16, BitVec.toNat_add]

/-- Adding an index to a 16-bit base wraps at 65536 (R139, R140, R143). -/
theorem toNat_add_zext16 (base : Word) (i : Byte) : (base + zext16 i).toNat = (base.toNat + i.toNat) % 65536 := by
  rw [BitVec.toNat_add, toNat_zext16]

/-- Both bytes of a zero-page pointer come from page 0 (R142, R143). -/
theorem zeroPagePointer_toNat (s : State) (t : Byte) :
    (zeroPagePointer s t).toNat =
      256 * (memRead s (BitVec.ofNat 16 ((t.toNat + 1) % 256))).toNat
        + (memRead s (BitVec.ofNat 16 t.toNat)).toNat := by
  rw [zeroPagePointer, word_toNat, zext16_eq_ofNat, zext16_eq_ofNat, BitVec.toNat_add]
  rfl

/-- The page mask keeps the high byte alone. -/
theorem word_and_pageMask (hi lo : Byte) : word hi lo &&& 0xFF00 = word hi 0 := by
  change (hi ++ lo) &&& (BitVec.allOnes 8 ++ 0#8) = hi ++ 0#8
  rw [BitVec.and_append, BitVec.and_allOnes, BitVec.and_zero]

/-- Off the end of the page, the next address has the next low byte. -/
theorem word_add_one {lo : Byte} (h : lo ≠ 0xFF) (hi : Byte) : word hi lo + 1 = word hi (lo + 1) := by
  have hlo : lo.toNat ≠ 255 := fun heq => h (BitVec.eq_of_toNat_eq heq)
  apply BitVec.eq_of_toNat_eq
  rw [BitVec.toNat_add, word_toNat, word_toNat, BitVec.toNat_add]
  simp only [BitVec.reduceToNat]
  omega

/-- The high byte of the pointer of IND is read at the next low byte of the same page (R141). -/
theorem indirectPointer_eq (s : State) (lo hi : Byte) :
    indirectPointer s lo hi = word (memRead s (word hi (lo + 1))) (memRead s (word hi lo)) := by
  unfold indirectPointer
  split
  · next h =>
    subst h
    rw [word_and_pageMask]
    rfl
  · next h => rw [word_add_one h]

theorem indirectPointer_toNat (s : State) (lo hi : Byte) :
    (indirectPointer s lo hi).toNat =
      256 * (memRead s (BitVec.ofNat 16 (256 * hi.toNat + (lo.toNat + 1) % 256))).toNat
        + (memRead s (BitVec.ofNat 16 (256 * hi.toNat + lo.toNat))).toNat := by
  rw [indirectPointer_eq, word_toNat, word_eq_ofNat, word_eq_ofNat, BitVec.toNat_add]
  rfl

/-- A pointer reads memory alone, so the fetch of the opcode byte does not move it. -/
@[simp] theorem zeroPagePointer_atOperands (s : State) (t : Byte) :
    zeroPagePointer (atOperands s) t = zeroPagePointer s t := by
  simp only [zeroPagePointer, memRead_atOperands]

@[simp] theorem indirectPointer_atOperands (s : State) (lo hi : Byte) :
    indirectPointer (atOperands s) lo hi = indirectPointer s lo hi := by
  simp only [indirectPointer, memRead_atOperands]

/-- Settles O45: each mode's address by the arithmetic of its index and its pointer. -/
theorem effectiveAddressesFollowTheModes : Obligations.EffectiveAddressesFollowTheModes := by
  intro s b lo hi
  refine ⟨rfl, toNat_zext16 b, toNat_zext16_add b s.x, toNat_zext16_add b s.y, word_toNat hi lo, ?abx, ?aby, ?ind,
    ?izx, ?izy⟩ <;> simp only [targetAddress, effectiveAddress, atOperands_x, atOperands_y,
      zeroPagePointer_atOperands, indirectPointer_atOperands]
  case abx | aby => rw [toNat_add_zext16, word_toNat]
  case ind => rw [indirectPointer_toNat]
  case izx => rw [zeroPagePointer_toNat, BitVec.toNat_add, Nat.mod_add_mod]
  case izy => rw [toNat_add_zext16, zeroPagePointer_toNat]

/-- Indexing leaves the page exactly when it carries out of the low byte, also where the sum wraps at 65536 (R144). -/
theorem hiByte_add_zext16_ne (base : Word) (i : Byte) :
    (hiByte (base + zext16 i) != hiByte base) = decide (0x100 ≤ (loByte base).toNat + i.toNat) := by
  have hsame : hiByte (base + zext16 i) = hiByte base ↔ (base.toNat + i.toNat) % 65536 / 256 = base.toNat / 256 := by
    rw [← BitVec.toNat_inj, hiByte_toNat, hiByte_toNat, toNat_add_zext16]
  rw [Bool.eq_iff_iff, bne_iff_ne, decide_eq_true_iff, Ne, hsame, loByte_toNat]
  omega

/-- The low byte of a zero-page pointer is the byte at the zero-page address. -/
theorem loByte_zeroPagePointer (s : State) (t : Byte) :
    loByte (zeroPagePointer s t) = memRead s (BitVec.ofNat 16 t.toNat) := by
  rw [zeroPagePointer, loByte_word, zext16_eq_ofNat t]

/-- Settles O46: the three indexed forms report the carry out of the low byte of their base, the others none. -/
theorem pageCrossingIsACarryOutOfTheLowByte : Obligations.PageCrossingIsACarryOutOfTheLowByte := by
  intro s m
  cases m with
  | abx lo hi =>
    have h := hiByte_add_zext16_ne (word hi lo) s.x
    rwa [loByte_word] at h
  | aby lo hi =>
    have h := hiByte_add_zext16_ne (word hi lo) s.y
    rwa [loByte_word] at h
  | izy b =>
    have h := hiByte_add_zext16_ne (zeroPagePointer s b) s.y
    rw [loByte_zeroPagePointer] at h
    simpa only [crossesPage, effectiveAddress, baseAddress, zeroPagePointer_atOperands, atOperands_y] using h
  | imp | imm | zp0 | zpx | zpy | rel | abs | ind | izx => rfl

end Sys2Proof.Machine
end

section
/-! Which event a step runs (00_scope.md R8, R9), and the instruction the fetch finds (40_addressing_modes.md R130). -/

namespace Sys2Proof

/-- What the decoder answers is the instruction of the bytes it was given. -/
theorem decodeBytes_of_decode {b0 : Byte} {rest bytes : List Byte} {i : Instr}
    (h : decode (b0 :: rest) = .ok (i, bytes)) : decodeBytes b0 (rest.getD 0 0) (rest.getD 1 0) = i := by
  rw [decode] at h
  split at h
  · cases h
  · cases h
    rfl

namespace Machine

section
variable {s : State} {e : Event} {i : Instr} {rest : List Event} {bytes : List Byte}

/-- With a supported cartridge the instruction run is the one the decoder reads at PC. -/
theorem runInstruction_of_decode (hc : cartridgeOk s = true)
    (h : decode [memRead s s.pc, memRead s (s.pc + 1), memRead s (s.pc + 2)] = .ok (i, bytes)) :
    runInstruction s = exec i s := by
  have hfetch : fetchInstr s = i := decodeBytes_of_decode h
  rw [runInstruction, withCartridge_of_ok hc, hfetch]

/-- With nothing due a step runs an instruction. -/
theorem step_of_schedule_nil (h : s.schedule = []) : step s = runInstruction s := by
  rw [step, stepEvent, nextEvent, h]
  rfl

/-- With an event due a step takes it off the schedule and handles it. -/
theorem step_of_schedule_cons (h : s.schedule = e :: rest) : step s = handleEvent e (s.setSchedule rest) := by
  rw [step, stepEvent, nextEvent, h]

end

/-- Settles O5: the schedule gives the event, the decoder the instruction, and an accepted cartridge stops neither. -/
theorem stepRunsTheNextEvent : Obligations.StepRunsTheNextEvent := by
  intro s i rest bytes hc
  have hc' : cartridgeOk (s.setSchedule rest) = true := hc
  have hdecode (h : decode [memRead s s.pc, memRead s (s.pc + 1), memRead s (s.pc + 2)] = .ok (i, bytes)) :
      runInstruction (s.setSchedule rest) = exec i (s.setSchedule rest) :=
    runInstruction_of_decode hc' (by simpa only [memRead_setSchedule, State.setSchedule_pc] using h)
  exact ⟨fun hs h => (step_of_schedule_nil hs).trans (runInstruction_of_decode hc h),
    fun hs h => (step_of_schedule_cons hs).trans (hdecode h),
    fun hs => (step_of_schedule_cons hs).trans (withCartridge_of_ok hc' _),
    fun hs => (step_of_schedule_cons hs).trans (withCartridge_of_ok hc' _),
    fun hs => (step_of_schedule_cons hs).trans (withCartridge_of_ok hc' _),
    step_of_schedule_cons, step_of_schedule_cons⟩

end Machine
end Sys2Proof
end

section
/-! What an operation leaves alone, from the updates it is made of: the frame of an operation is put together as the
operation is. -/

namespace Sys2Proof.Machine

/-- One register written, the register named by its tag. -/
def State.setReg (s : State) : Reg → Byte → State
  | .a, v => s.setA v
  | .x, v => s.setX v
  | .y, v => s.setY v
  | .sp, v => s.setSp v

@[simp] theorem State.reg_setReg (s : State) (r q : Reg) (v : Byte) :
    (s.setReg r v).reg q = if q = r then v else s.reg q := by
  cases r <;> cases q <;> rfl

/-- The bus translates by the geometry of the cartridge and the parameters alone. -/
theorem locate_of_geometry {s t : State} (hg : geometry t = geometry s) (hp : t.params = s.params) (a : Word) :
    locate t a = locate s a := by
  have hmap : (t.cart.bind fun c => cpuMap c a) = s.cart.bind fun c => cpuMap c a := by
    unfold geometry at hg
    cases hs : s.cart <;> cases ht : t.cart <;> simp [hs, ht] at hg
    · rfl
    · obtain ⟨hid, hbanks, -⟩ := hg
      exact cpuMap_congr hid hbanks a
  rw [locate, locate, hmap, hp]

namespace Leaves

theorem refl (s : State) : Leaves [] [] [] s s :=
  .of_registers ⟨rfl, rfl, rfl, rfl, rfl⟩ rfl rfl rfl rfl rfl rfl rfl (fun _ _ => rfl) (fun _ _ _ => rfl) rfl

/-- One store through the bus. -/
theorem store (s : State) (a : Word) (v : Byte) : Leaves [] [] [(a, v)] s (memWrite s a v) :=
  .of_store ⟨rfl, rfl, rfl, rfl, rfl⟩ (by simp) (by simp) (by simp) (by simp) (by simp) (by simp) (by simp)
    (fun r _ => by cases r <;> simp [State.reg]) (fun f _ _ => by simp [State.flag]) (by simp [State.flag])

variable {regs rs : List Reg} {flags fs : List Flag} {stores ws : List (Word × Byte)} {s t u : State}

/-- One change after another: registers and flags in the order they are written, the latest store first. -/
theorem trans (h : Leaves regs flags stores s t) (h' : Leaves rs fs ws t u) :
    Leaves (regs ++ rs) (flags ++ fs) (ws ++ stores) s u where
  pc := h'.pc.trans h.pc
  cyc := h'.cyc.trans h.cyc
  ea := h'.ea.trans h.ea
  rel := h'.rel.trans h.rel
  fetched := h'.fetched.trans h.fetched
  ticks := h'.ticks.trans h.ticks
  params := h'.params.trans h.params
  schedule := h'.schedule.trans h.schedule
  geometry := h'.geometry.trans h.geometry
  registers r hr := by
    rw [List.mem_append, not_or] at hr
    exact (h'.registers r hr.2).trans (h.registers r hr.1)
  flags f hf hu := by
    rw [List.mem_append, not_or] at hf
    exact (h'.flags f hf.2 hu).trans (h.flags f hf.1 hu)
  u := h'.u.trans h.u
  stores := h.stores.trans h'.stores (locate_of_geometry h.geometry h.params)

theorem setReg (h : Leaves regs flags stores s t) (r : Reg) (v : Byte) :
    Leaves (regs ++ [r]) flags stores s (t.setReg r v) := by
  have hkeeps : KeepsRegisters [r] t (t.setReg r v) := fun q hq => by
    rw [State.reg_setReg, if_neg (List.ne_of_not_mem_cons hq)]
  have hstep : Leaves [r] [] [] t (t.setReg r v) := by
    cases r <;> exact .of_registers ⟨rfl, rfl, rfl, rfl, rfl⟩ rfl rfl rfl rfl rfl rfl rfl hkeeps (fun _ _ _ => rfl) rfl
  simpa using h.trans hstep

theorem setZN (h : Leaves regs flags stores s t) (v : Byte) :
    Leaves regs (flags ++ [.z, .n]) stores s (t.setZN v) := by
  have hflags : KeepsFlags [.z, .n] t (t.setZN v) := fun f hf _ => by
    simp only [List.mem_cons, List.not_mem_nil, or_false, not_or] at hf
    obtain ⟨hz, hn⟩ := hf
    rw [State.flag_setZN, if_neg hn, if_neg hz]
  have hstep : Leaves [] [.z, .n] [] t (t.setZN v) :=
    .of_registers (sameStorage_setZN t v) rfl rfl rfl rfl rfl rfl rfl (fun r _ => by cases r <;> rfl) hflags (by simp)
  simpa using h.trans hstep

end Leaves

/-- `SetZN(v)` shows Z and N of `v`. -/
theorem showsZN_setZN (s : State) (v : Byte) : ShowsZN v (s.setZN v) :=
  ⟨(State.flag_setZN s v .z).trans (byte_beq_zero v), (State.flag_setZN s v .n).trans (byte_bit7 v)⟩

end Sys2Proof.Machine
end

section
/-! Loads, stores and register transfers (41_load_store_transfer.md): a byte goes to registers, with Z and N of it, or
to one address. -/

namespace Sys2Proof.Machine

section
variable (s : State) (o : Op) (m : Operand) {v : State → Byte} {b : Byte}

/-- An operation that writes the listed registers and then Z and N of a byte. -/
theorem perform_setZN {g : State → State} {regs : List Reg} (hg : ∀ d, Leaves regs [] [] d (g d))
    (hv : v (dispatched s (baseCycles s.params o m.mode) m) = b) :
    ∃ t, perform s o m (fun d => (g d).setZN (v d)) = .next t ∧
      (∀ r, t.reg r = (g (dispatched s (baseCycles s.params o m.mode) m)).reg r) ∧ ShowsZN b t ∧
      RunsOn s o m regs [.z, .n] [] t := by
  obtain ⟨d, t, rfl, ht, hrun, hreg, hflag⟩ :=
    perform_spec s o m (fun d => (g d).setZN (v d)) fun d _ => (hg d).setZN (v d)
  obtain ⟨hz, hn⟩ := showsZN_setZN (g (dispatched s (baseCycles s.params o m.mode) m)) b
  rw [hv] at hreg hflag
  exact ⟨t, ht, fun r => (hreg r).trans (by cases r <;> rfl), ⟨(hflag .z).trans hz, (hflag .n).trans hn⟩, hrun⟩

/-- An operation that moves a byte to one register, with Z and N of it. -/
theorem perform_move (r : Reg) (hv : v (dispatched s (baseCycles s.params o m.mode) m) = b) :
    ∃ t, perform s o m (fun d => (d.setReg r (v d)).setZN (v d)) = .next t ∧ t.reg r = b ∧ ShowsZN b t ∧
      RunsOn s o m [r] [.z, .n] [] t := by
  obtain ⟨t, ht, hreg, hzn, hrun⟩ := perform_setZN s o m (fun d => (Leaves.refl d).setReg r (v d)) hv
  exact ⟨t, ht, by rw [hreg, State.reg_setReg, if_pos rfl, hv], hzn, hrun⟩

/-- An operation that stores a byte at the effective address and does no more. -/
theorem perform_store (hv : v (dispatched s (baseCycles s.params o m.mode) m) = b) :
    ∃ t, perform s o m (fun d => memWrite d d.ea (v d)) = .next t ∧
      RunsOn s o m [] [] [(targetAddress s m, b)] t := by
  obtain ⟨d, t, -, ht, hrun, -⟩ := perform_spec s o m (fun d => memWrite d d.ea (v d))
    (stores := [(targetAddress s m, b)]) fun d hd => by
      subst hd
      rw [dispatched_ea, hv]
      exact Leaves.store _ _ _
  exact ⟨t, ht, hrun⟩
end

/-- LAX moves the operand to A and to X. -/
theorem exec_lax_spec (m : Operand) (s : State) :
    ∃ t, exec (.lax m) s = .next t ∧ t.a = sourceOperand s m ∧ t.x = sourceOperand s m ∧
      ShowsZN (sourceOperand s m) t ∧ RunsOn s .lax m [.a, .x] [.z, .n] [] t := by
  have hv := operandValue_dispatched s (baseCycles s.params .lax m.mode) m
  obtain ⟨t, ht, hreg, hzn, hrun⟩ := perform_setZN s .lax m (v := (operandValue · m))
    (fun d => ((Leaves.refl d).setReg .a (operandValue d m)).setReg .x (operandValue d m)) hv
  exact ⟨t, ht, (hreg .a).trans hv, (hreg .x).trans hv, hzn, hrun⟩

/-- Settles O6: each load moves the operand the resolver found. -/
theorem loadsMoveTheOperand : Obligations.LoadsMoveTheOperand :=
  ⟨rfl, rfl, rfl, rfl, rfl, fun m s =>
    ⟨perform_move s .lda m .a (operandValue_dispatched s _ m), perform_move s .ldx m .x (operandValue_dispatched s _ m),
      perform_move s .ldy m .y (operandValue_dispatched s _ m), exec_lax_spec m s⟩⟩

/-- Settles O7: the dispatch leaves the effective address in `EA` and the registers as they are. -/
theorem storesWriteOneByte : Obligations.StoresWriteOneByte :=
  ⟨rfl, rfl, rfl, rfl, rfl, rfl, fun m s =>
    ⟨perform_store s .sta m (dispatched_a s _ m), perform_store s .stx m (dispatched_x s _ m),
      perform_store s .sty m (dispatched_y s _ m),
      perform_store s .sax m (congrArg₂ (· &&& ·) (dispatched_a s _ m) (dispatched_x s _ m))⟩⟩

/-- Settles O8: each transfer moves a register, which the dispatch leaves as it is. -/
theorem transfersMoveARegister : Obligations.TransfersMoveARegister :=
  ⟨⟨rfl, rfl⟩, ⟨rfl, rfl⟩, ⟨rfl, rfl⟩, ⟨rfl, rfl⟩, ⟨rfl, rfl⟩, fun s =>
    ⟨perform_move s .tax .imp .x (dispatched_a s _ .imp), perform_move s .tay .imp .y (dispatched_a s _ .imp),
      perform_move s .txa .imp .a (dispatched_x s _ .imp), perform_move s .tya .imp .a (dispatched_y s _ .imp),
      perform_move s .tsx .imp .x (dispatched_sp s _ .imp)⟩⟩

/-- Settles O9: the operation writes SP and no flag. -/
theorem txsMovesWithoutFlags : Obligations.TxsMovesWithoutFlags := by
  refine ⟨⟨rfl, rfl⟩, fun s => ?_⟩
  obtain ⟨d, t, rfl, ht, hrun, hreg, -⟩ :=
    perform_spec s .txs .imp opTxs fun d _ => (Leaves.refl d).setReg .sp d.x
  exact ⟨t, ht, (hreg .sp).trans (dispatched_x s (baseCycles s.params .txs .imp) .imp), hrun⟩

end Sys2Proof.Machine
end

section
/-! Logic (42_logic.md): a bitwise combination goes to A with Z and N of it, or BIT tests the operand and writes flags
alone. -/

namespace Sys2Proof.Machine

/-- One flag written, other than U, which is the dispatch's to set (R28). -/
theorem Leaves.setFlag {regs : List Reg} {flags : List Flag} {stores : List (Word × Byte)} {s t : State}
    (h : Leaves regs flags stores s t) {f : Flag} (hf : f ≠ .u) (v : Bool) :
    Leaves regs (flags ++ [f]) stores s (t.setFlag f v) := by
  have hflags : KeepsFlags [f] t (t.setFlag f v) := fun g hg _ => by
    rw [State.flag_setFlag, if_neg (List.ne_of_not_mem_cons hg)]
  have hu : (t.setFlag f v).flag .u = t.flag .u := by rw [State.flag_setFlag, if_neg hf.symm]
  have hstep : Leaves [] [f] [] t (t.setFlag f v) :=
    .of_registers (sameStorage_setFlag t f v) rfl rfl rfl rfl rfl rfl rfl (fun r _ => by cases r <;> rfl) hflags hu
  simpa using h.trans hstep

/-- BIT's assignments write Z, N and V alone (R183). -/
theorem leaves_bitTest (s : State) (m : Byte) : Leaves [] [.z, .n, .v] [] s (s.bitTest m) :=
  (((Leaves.refl s).setFlag (f := .z) (by decide) _).setFlag (f := .n) (by decide) _).setFlag (f := .v) (by decide) _

/-- An operation that combines A with the operand, bit by bit, and leaves the result in A with Z and N of it. -/
theorem perform_bitwise (s : State) (o : Op) (m : Operand) {f : Byte → Byte → Byte} {g : Bool → Bool → Bool}
    (hbits : ∀ v w k, (f v w).getLsbD k = g (v.getLsbD k) (w.getLsbD k)) :
    ∃ t, perform s o m (fun d => (d.setA (f d.a (operandValue d m))).setZN (f d.a (operandValue d m))) = .next t ∧
      (∀ k, t.a.getLsbD k = g (s.a.getLsbD k) ((sourceOperand s m).getLsbD k)) ∧ ShowsZN t.a t ∧
      RunsOn s o m [.a] [.z, .n] [] t := by
  obtain ⟨t, ht, ha, hzn, hrun⟩ := perform_move s o m .a (v := fun d => f d.a (operandValue d m))
    (congrArg₂ f (dispatched_a s _ m) (operandValue_dispatched s _ m))
  have hresult : t.a = f s.a (sourceOperand s m) := ha
  exact ⟨t, ht, fun k => by rw [hresult, hbits], by rwa [hresult], hrun⟩

/-- Settles O10: the dispatch leaves A and the operand as they are, and each operation acts bit by bit. -/
theorem logicCombinesWithTheAccumulator : Obligations.LogicCombinesWithTheAccumulator :=
  ⟨rfl, rfl, rfl, fun m s =>
    ⟨perform_bitwise s .and m fun _ _ _ => BitVec.getLsbD_and,
      perform_bitwise s .ora m fun _ _ _ => BitVec.getLsbD_or,
      perform_bitwise s .eor m fun _ _ _ => BitVec.getLsbD_xor⟩⟩

/-- Settles O11: Z is that of the and, N and V are the operand's own bits 7 and 6, and no register is written. -/
theorem bitTestsTheOperand : Obligations.BitTestsTheOperand := by
  refine ⟨rfl, fun m s => ?_⟩
  obtain ⟨d, t, rfl, ht, hrun, -, hflag⟩ :=
    perform_spec s .bit m (opBit m) fun d _ => leaves_bitTest d (operandValue d m)
  simp only [opBit, State.flag_bitTest, dispatched_a, operandValue_dispatched] at hflag
  exact ⟨t, ht, (hflag .z).trans (byte_beq_zero _), (hflag .n).trans (byte_bit7 _), (hflag .v).trans (byte_bit6 _),
    hrun⟩

end Sys2Proof.Machine
end

section
/-! Arithmetic, compares, increments and decrements (43_arithmetic.md): the adder in unsigned and signed numbers, and
what the operations built on it leave. -/

namespace Sys2Proof.Machine

/-- The adder's byte as a number (R192). -/
theorem toNat_adderByte (a v : Byte) (c : Bool) : (adderByte a v c).toNat = adderSum a v c % 256 :=
  BitVec.toNat_ofNat _ _

/-- The adder's overflow in the three sign bits (R192). -/
theorem adderOverflow_iff (a v t : Byte) :
    adderOverflow a v t = true ↔ a.getLsbD 7 = v.getLsbD 7 ∧ t.getLsbD 7 ≠ a.getLsbD 7 := by
  simp only [adderOverflow, BitVec.getLsbD_and, BitVec.getLsbD_not, BitVec.getLsbD_xor]
  cases a.getLsbD 7 <;> cases v.getLsbD 7 <;> cases t.getLsbD 7 <;> decide

theorem carryNat_le_one (c : Bool) : carryNat c ≤ 1 := by
  cases c <;> decide

/-- The adder's overflow says that the signed sum does not fit a byte (R190, R192). -/
theorem adderOverflow_eq_outOfSignedRange (a v : Byte) (c : Bool) :
    adderOverflow a v (adderByte a v c) = outOfSignedRange (a.toInt + v.toInt + carryNat c) := by
  have hc := carryNat_le_one c
  have ha := a.isLt
  have hv := v.isLt
  rw [Bool.eq_iff_iff, adderOverflow_iff]
  simp only [byte_bit7, toNat_adderByte, adderSum, outOfSignedRange, BitVec.toInt_eq_toNat_cond, Bool.or_eq_true,
    decide_eq_true_eq, decide_eq_decide, ne_eq]
  split_ifs <;> omega

theorem toNat_complement (m : Byte) : (m ^^^ 0xFF).toNat = 255 - m.toNat := by
  rw [show m ^^^ 0xFF = ~~~m from BitVec.xor_allOnes, BitVec.toNat_not]

theorem toInt_complement (m : Byte) : (m ^^^ 0xFF).toInt = -1 - m.toInt := by
  have hm := m.isLt
  simp only [BitVec.toInt_eq_toNat_cond, toNat_complement]
  split_ifs <;> omega

/-- The two ways the spec writes signed overflow agree (R192, R193). -/
theorem subtractOverflow_eq_adderOverflow (a v t : Byte) : subtractOverflow a v t = adderOverflow a v t := by
  simp only [subtractOverflow, adderOverflow, BitVec.getLsbD_and, BitVec.getLsbD_not, BitVec.getLsbD_xor]
  cases a.getLsbD 7 <;> cases v.getLsbD 7 <;> cases t.getLsbD 7 <;> decide

/-- SBC's assignments are ADC's for the one's complement (R193). -/
theorem subtractWithCarry_eq_addWithCarry (s : State) (m : Byte) :
    s.subtractWithCarry m = s.addWithCarry (m ^^^ 0xFF) := by
  simp only [State.subtractWithCarry, State.addWithCarry, subtractOverflow_eq_adderOverflow]

/-- ADC's assignments write A and C, Z, V, N alone. -/
theorem leaves_addWithCarry (s : State) (m : Byte) : Leaves [.a] [.c, .z, .v, .n] [] s (s.addWithCarry m) :=
  (((((Leaves.refl s).setFlag (f := .c) (by decide) _).setFlag (f := .z) (by decide) _).setFlag (f := .v)
    (by decide) _).setFlag (f := .n) (by decide) _).setReg .a _

/-- `Compare` writes C, Z and N alone (R194). -/
theorem leaves_compare (s : State) (r m : Byte) : Leaves [] [.c, .z, .n] [] s (s.compare r m) :=
  (((Leaves.refl s).setFlag (f := .c) (by decide) _).setFlag (f := .z) (by decide) _).setFlag (f := .n) (by decide) _

/-- The low byte of `Compare`'s 16-bit difference (R194). -/
theorem setWidth_difference (r m : Byte) : (r.setWidth 16 - m.setWidth 16 : Word).setWidth 8 = r - m := by
  bv_omega

/-- `Compare`'s Z: the register and the operand are equal. -/
theorem difference_beq_zero (r m : Byte) :
    ((r.setWidth 16 - m.setWidth 16 : Word).setWidth 8 == 0#8) = decide (r = m) := by
  rw [setWidth_difference, Bool.eq_iff_iff, beq_iff_eq, decide_eq_true_eq]
  bv_omega

/-- `Compare`'s N: bit 7 of the difference modulo 256. -/
theorem difference_bit7 (r m : Byte) :
    (r.setWidth 16 - m.setWidth 16 : Word).getLsbD 7 = decide (0x80 ≤ (r.toNat + 256 - m.toNat) % 256) := by
  have hlow : (r.setWidth 16 - m.setWidth 16 : Word).getLsbD 7 = (r - m).getLsbD 7 := by
    rw [← setWidth_difference, BitVec.getLsbD_setWidth]
    rfl
  have hdiff : (r - m).toNat = (r.toNat + 256 - m.toNat) % 256 := by bv_omega
  rw [hlow, byte_bit7, hdiff]

theorem reg_dispatched (s : State) (base : Nat) (m : Operand) (r : Reg) : (dispatched s base m).reg r = s.reg r := by
  cases r <;> simp [State.reg]

section
variable (s : State) (o : Op) (m : Operand) {v : State → Byte} {b : Byte}

/-- An operation that adds a byte and the carry to A. -/
theorem perform_addWithCarry (hv : v (dispatched s (baseCycles s.params o m.mode) m) = b) :
    ∃ t, perform s o m (fun d => d.addWithCarry (v d)) = .next t ∧ t.a = adderByte s.a b (s.flag .c) ∧
      t.flag .c = decide (0xFF < adderSum s.a b (s.flag .c)) ∧ t.flag .v = adderOverflow s.a b t.a ∧
      ShowsZN t.a t ∧ RunsOn s o m [.a] [.c, .z, .v, .n] [] t := by
  obtain ⟨d, t, rfl, ht, hrun, hreg, hflag⟩ :=
    perform_spec s o m (fun d => d.addWithCarry (v d)) fun d _ => leaves_addWithCarry d (v d)
  have ha : t.a = adderByte s.a b (s.flag .c) := by
    have := hreg .a
    simpa [State.reg, hv] using this
  simp only [State.flag_addWithCarry, dispatched_a, flag_dispatched, hv, reduceCtorEq, if_false, ← ha] at hflag
  exact ⟨t, ht, ha, hflag .c, hflag .v, ⟨(hflag .z).trans (byte_beq_zero _), (hflag .n).trans (byte_bit7 _)⟩, hrun⟩

/-- An operation that compares a register with the operand. -/
theorem perform_compare (hv : v (dispatched s (baseCycles s.params o m.mode) m) = b) :
    ∃ t, perform s o m (fun d => d.compare (v d) (operandValue d m)) = .next t ∧
      t.flag .c = decide ((sourceOperand s m).toNat ≤ b.toNat) ∧ t.flag .z = decide (b = sourceOperand s m) ∧
      t.flag .n = decide (0x80 ≤ (b.toNat + 256 - (sourceOperand s m).toNat) % 256) ∧
      RunsOn s o m [] [.c, .z, .n] [] t := by
  obtain ⟨d, t, rfl, ht, hrun, -, hflag⟩ := perform_spec s o m (fun d => d.compare (v d) (operandValue d m))
    fun d _ => leaves_compare d (v d) (operandValue d m)
  simp only [State.flag_compare, hv, operandValue_dispatched] at hflag
  exact ⟨t, ht, hflag .c, (hflag .z).trans (difference_beq_zero _ _), (hflag .n).trans (difference_bit7 _ _), hrun⟩

/-- An operation that stores a byte at the effective address, with Z and N of it. -/
theorem perform_store_setZN (hv : v (dispatched s (baseCycles s.params o m.mode) m) = b) :
    ∃ t, perform s o m (fun d => (memWrite d d.ea (v d)).setZN (v d)) = .next t ∧ ShowsZN b t ∧
      RunsOn s o m [] [.z, .n] [(targetAddress s m, b)] t := by
  obtain ⟨d, t, rfl, ht, hrun, -, hflag⟩ := perform_spec s o m (fun d => (memWrite d d.ea (v d)).setZN (v d))
    (stores := [(targetAddress s m, b)]) fun d hd => by
      subst hd
      rw [dispatched_ea, hv]
      exact (Leaves.store _ _ _).setZN _
  rw [hv] at hflag
  obtain ⟨hz, hn⟩ := showsZN_setZN (memWrite (dispatched s (baseCycles s.params o m.mode) m)
    (dispatched s (baseCycles s.params o m.mode) m).ea b) b
  exact ⟨t, ht, ⟨(hflag .z).trans hz, (hflag .n).trans hn⟩, hrun⟩
end

/-- Settles O12: ADC is the adder on the operand. -/
theorem adcAddsWithCarry : Obligations.AdcAddsWithCarry := by
  refine ⟨rfl, fun m s => ?_⟩
  obtain ⟨t, ht, ha, hc, hv, hzn, hrun⟩ := perform_addWithCarry s .adc m (v := (operandValue · m))
    (operandValue_dispatched s _ m)
  have hsum : t.flag .v = outOfSignedRange (s.a.toInt + (sourceOperand s m).toInt + carryNat (s.flag .c)) := by
    rw [hv, ha, adderOverflow_eq_outOfSignedRange]
  exact ⟨t, ht, by rw [ha, toNat_adderByte, adderSum], hc, hsum, by rw [hv, adderOverflow_iff], hzn, hrun⟩

/-- SBC is the adder on the operand's one's complement. -/
theorem opSbc_eq (m : Operand) : opSbc m = fun d => d.addWithCarry (operandValue d m ^^^ 0xFF) :=
  funext fun d => subtractWithCarry_eq_addWithCarry d (operandValue d m)

/-- Settles O13: the adder on the one's complement, which as a number is `255 - m` and as a signed one `-1 - m`. -/
theorem sbcSubtractsWithBorrow : Obligations.SbcSubtractsWithBorrow := by
  refine ⟨rfl, subtractWithCarry_eq_addWithCarry, fun m s => ?_⟩
  obtain ⟨t, ht, ha, hc, hv, hzn, hrun⟩ := perform_addWithCarry s .sbc m (v := (operandValue · m ^^^ 0xFF))
    (congrArg (· ^^^ 0xFF) (operandValue_dispatched s _ m))
  rw [← opSbc_eq] at ht
  rw [ha, adderOverflow_eq_outOfSignedRange, toInt_complement] at hv
  have hcarry := carryNat_le_one (s.flag .c)
  have hm := (sourceOperand s m).isLt
  refine ⟨t, ht, ?_, hc.trans ?_, hv.trans (congrArg outOfSignedRange ?_), hzn, hrun⟩
  · rw [ha, toNat_adderByte, adderSum, toNat_complement]
    omega
  · rw [adderSum, toNat_complement, decide_eq_decide]
    omega
  · omega

/-- Settles O15: each compares a register, which the dispatch leaves as it is. -/
theorem comparesWriteOnlyFlags : Obligations.ComparesWriteOnlyFlags :=
  ⟨rfl, rfl, rfl, fun m s =>
    ⟨perform_compare s .cmp m (dispatched_a s _ m), perform_compare s .cpx m (dispatched_x s _ m),
      perform_compare s .cpy m (dispatched_y s _ m)⟩⟩

theorem toNat_sub_one (v : Byte) : (v - 1).toNat = (v.toNat + 255) % 256 := by bv_omega

/-- Settles O16: each stores the operand plus or minus one at the effective address. -/
theorem memoryIncrementsAndDecrements : Obligations.MemoryIncrementsAndDecrements := by
  refine ⟨rfl, rfl, rfl, fun m s => ⟨?_, ?_⟩⟩
  · obtain ⟨t, ht, hzn, hrun⟩ := perform_store_setZN s .inc m (v := (operandValue · m + 1))
      (congrArg (· + 1) (operandValue_dispatched s _ m))
    exact ⟨t, sourceOperand s m + 1, ht, BitVec.eq_of_toNat_eq (BitVec.toNat_add _ 1), hzn, hrun⟩
  · obtain ⟨t, ht, hzn, hrun⟩ := perform_store_setZN s .dec m (v := (operandValue · m - 1))
      (congrArg (· - 1) (operandValue_dispatched s _ m))
    exact ⟨t, sourceOperand s m - 1, ht, BitVec.eq_of_toNat_eq (toNat_sub_one _), hzn, hrun⟩

/-- An operation that adds `n` modulo 256 to one register, with Z and N of the new value. -/
theorem perform_stepRegister (s : State) (o : Op) (r : Reg) {f : Byte → Byte} {n : Nat}
    (hf : ∀ v, (f v).toNat = (v.toNat + n) % 256) :
    ∃ t, perform s o .imp (fun d => (d.setReg r (f (d.reg r))).setZN (f (d.reg r))) = .next t ∧
      (t.reg r).toNat = ((s.reg r).toNat + n) % 256 ∧ ShowsZN (t.reg r) t ∧ RunsOn s o .imp [r] [.z, .n] [] t := by
  obtain ⟨t, ht, hreg, hzn, hrun⟩ :=
    perform_move s o .imp r (v := fun d => f (d.reg r)) (congrArg f (reg_dispatched s _ .imp r))
  exact ⟨t, ht, by rw [hreg, hf], by rwa [hreg], hrun⟩

/-- Settles O17: each adds 1 or 255 modulo 256 to its register. -/
theorem indexRegistersStepByOne : Obligations.IndexRegistersStepByOne :=
  ⟨⟨rfl, rfl⟩, ⟨rfl, rfl⟩, ⟨rfl, rfl⟩, ⟨rfl, rfl⟩, fun s =>
    ⟨perform_stepRegister s .inx .x (BitVec.toNat_add · 1), perform_stepRegister s .iny .y (BitVec.toNat_add · 1),
      perform_stepRegister s .dex .x toNat_sub_one, perform_stepRegister s .dey .y toNat_sub_one⟩⟩

end Sys2Proof.Machine
end

section
/-! D and the arithmetic (43_arithmetic.md R191): writing D commutes with the dispatch and with what ADC, SBC and ISB
are made of, so nothing they compute depends on it. -/

namespace Sys2Proof.Machine

/-- Writes of two different flags commute. -/
theorem withFlag_comm {f g : Flag} (h : f ≠ g) (p : Byte) (v w : Bool) :
    withFlag (withFlag p f v) g w = withFlag (withFlag p g w) f v := by
  refine eq_of_getFlag_eq fun k => ?_
  simp only [getFlag_withFlag]
  by_cases hf : k = f
  · rw [if_pos hf, if_pos hf, if_neg (hf ▸ h)]
  · rw [if_neg hf, if_neg hf]

theorem State.setFlag_comm {f g : Flag} (h : f ≠ g) (s : State) (v w : Bool) :
    (s.setFlag f v).setFlag g w = (s.setFlag g w).setFlag f v :=
  congrArg s.setP (withFlag_comm h s.p v w)

section
variable (s : State) (f : Flag) (v : Bool)

theorem memWrite_setFlag (a : Word) (b : Byte) : memWrite (s.setFlag f v) a b = (memWrite s a b).setFlag f v := by
  rw [State.setFlag, memWrite_setP, State.setFlag, memWrite_p]

@[simp] theorem operandValue_setFlag (m : Operand) : operandValue (s.setFlag f v) m = operandValue s m := by
  cases m <;> simp [operandValue]

@[simp] theorem effectiveAddress_setFlag (m : Operand) :
    effectiveAddress (s.setFlag f v) m = effectiveAddress s m :=
  effectiveAddress_congr rfl rfl rfl rfl (memRead_setFlag s f v) m

@[simp] theorem crossesPage_setFlag (m : Operand) : crossesPage (s.setFlag f v) m = crossesPage s m := by
  have hbase := baseAddress_congr (memRead_setFlag s f v) m
  cases m <;> simp [crossesPage, hbase]

theorem resolve_setFlag (m : Operand) : resolve (s.setFlag f v) m = (resolve s m).setFlag f v := by
  cases m <;> simp only [resolve, effectiveAddress_setFlag] <;> rfl
end

section
variable (s : State) (d : Bool)

theorem beginDispatch_setFlag_d (base : Nat) :
    beginDispatch (s.setFlag .d d) base = (beginDispatch s base).setFlag .d d :=
  State.setFlag_comm (by decide) ((s.setPc (s.pc + 1)).setCyc base) d true

theorem addWithCarry_setFlag_d (m : Byte) : (s.setFlag .d d).addWithCarry m = (s.addWithCarry m).setFlag .d d := by
  have hd {f : Flag} (hf : f ≠ .d) (u : State) (v : Bool) :
      (u.setFlag .d d).setFlag f v = (u.setFlag f v).setFlag .d d := State.setFlag_comm hf.symm u d v
  simp only [State.addWithCarry, State.flag_setFlag, State.setFlag_a, reduceCtorEq, if_false, ne_eq, not_false_eq_true,
    hd]
  rfl

theorem subtractWithCarry_setFlag_d (m : Byte) :
    (s.setFlag .d d).subtractWithCarry m = (s.subtractWithCarry m).setFlag .d d := by
  rw [subtractWithCarry_eq_addWithCarry, subtractWithCarry_eq_addWithCarry, addWithCarry_setFlag_d]

/-- An operation that commutes with writing D gives an instruction that does. -/
theorem perform_setFlag_d {o : Op} {m : Operand} {f : State → State}
    (hf : ∀ u, f (u.setFlag .d d) = (f u).setFlag .d d) {t : State} (h : perform s o m f = .next t) :
    perform (s.setFlag .d d) o m f = .next (t.setFlag .d d) := by
  cases h
  refine congrArg Host.Outcome.next ?_
  simp only [runEntry, dispatched, beginDispatch_setFlag_d, resolve_setFlag, hf, crossesPage_setFlag,
    State.setFlag_params]
  rfl
end

/-- Settles O14: each operation is made of reads of the operand, a store and the adder, and D commutes with them all. -/
theorem decimalFlagDoesNotChangeArithmetic : Obligations.DecimalFlagDoesNotChangeArithmetic := by
  refine fun m s t d => ⟨perform_setFlag_d s d fun u => ?_, perform_setFlag_d s d fun u => ?_,
    perform_setFlag_d s d fun u => ?_⟩
  · rw [opAdc, operandValue_setFlag, addWithCarry_setFlag_d, opAdc]
  · rw [opSbc, operandValue_setFlag, subtractWithCarry_setFlag_d, opSbc]
  · simp only [opIsb, operandValue_setFlag, State.setFlag_ea, memWrite_setFlag, subtractWithCarry_setFlag_d]

end Sys2Proof.Machine
end

section
/-! Shifts and rotates (44_shift_rotate.md): the operand moves by one bit through C and goes to A or to the effective
address (R210); a rotation of A turns the nine bits of C and A. -/

namespace Sys2Proof.Machine

/-! The results in numbers (R211 to R214). -/

theorem shiftLeft_eq (m : Byte) : shiftLeft m = (BitVec.ofNat 8 (2 * m.toNat), decide (0x80 ≤ m.toNat)) := by
  refine Prod.ext (BitVec.eq_of_toNat_eq ?_) (byte_bit7 m)
  rw [shiftLeft, BitVec.toNat_shiftLeft, Nat.shiftLeft_eq, BitVec.toNat_ofNat]
  omega

theorem shiftRight_eq (m : Byte) : shiftRight m = (BitVec.ofNat 8 (m.toNat / 2), decide (m.toNat % 2 = 1)) := by
  have hm := m.isLt
  refine Prod.ext (BitVec.eq_of_toNat_eq ?_) (byte_bit0 m)
  rw [shiftRight, BitVec.toNat_ushiftRight, Nat.shiftRight_eq_div_pow, BitVec.toNat_ofNat]
  omega

/-- The old carry enters at bit 0, which the shift leaves free. -/
theorem rotateLeft_eq (c : Bool) (m : Byte) :
    rotateLeft c m = (BitVec.ofNat 8 (2 * m.toNat + carryNat c), decide (0x80 ≤ m.toNat)) := by
  cases c with
  | false =>
    have hshift : rotateLeft false m = shiftLeft m := congrArg (·, m.getLsbD 7) BitVec.or_zero
    exact hshift.trans (shiftLeft_eq m)
  | true =>
    have hshift : (m <<< 1).toNat = 2 ^ 1 * (m.toNat % 128) := by
      rw [BitVec.toNat_shiftLeft, Nat.shiftLeft_eq]
      omega
    refine Prod.ext (BitVec.eq_of_toNat_eq ?_) (byte_bit7 m)
    change (m <<< 1).toNat ||| 1 = (2 * m.toNat + 1) % 256
    rw [hshift, ← Nat.two_pow_add_eq_or_of_lt (by decide)]
    omega

/-- The old carry enters at bit 7, which the shift leaves free. -/
theorem rotateRight_eq (c : Bool) (m : Byte) :
    rotateRight c m = (BitVec.ofNat 8 (m.toNat / 2 + 0x80 * carryNat c), decide (m.toNat % 2 = 1)) := by
  cases c with
  | false =>
    have hshift : rotateRight false m = shiftRight m := congrArg (·, m.getLsbD 0) BitVec.zero_or
    exact hshift.trans (shiftRight_eq m)
  | true =>
    have hm := m.isLt
    refine Prod.ext (BitVec.eq_of_toNat_eq ?_) (byte_bit0 m)
    change 2 ^ 7 * 1 ||| m.toNat / 2 = (m.toNat / 2 + 0x80) % 256
    rw [← Nat.two_pow_add_eq_or_of_lt (by omega)]
    omega

/-! What a shift writes (R147, R210). -/

@[simp] theorem flag_storeResult (s : State) (m : Operand) (v : Byte) (f : Flag) :
    (storeResult s m v).flag f = s.flag f := by
  cases m
  case imp => rfl
  all_goals simp [storeResult, State.flag]

/-- Every form but the accumulator's stores the result at `EA`. -/
theorem storeResult_of_ne_imp {m : Operand} (hm : m ≠ .imp) (s : State) (v : Byte) :
    storeResult s m v = memWrite s s.ea v := by
  cases m
  case imp => exact absurd rfl hm
  all_goals rfl

/-- C is the bit moved out, Z and N are those of the result. -/
theorem shiftResult_flags (s : State) (m : Operand) (r : Byte × Bool) :
    (shiftResult s m r).flag .c = r.2 ∧ ShowsZN r.1 (shiftResult s m r) := by
  simp only [ShowsZN, shiftResult, flag_storeResult]
  exact ⟨by simp, showsZN_setZN (s.setFlag .c r.2) r.1⟩

theorem leaves_shiftFlags (s : State) (r : Byte × Bool) :
    Leaves [] [.c, .z, .n] [] s ((s.setFlag .c r.2).setZN r.1) :=
  ((Leaves.refl s).setFlag (f := .c) (by decide) r.2).setZN r.1

theorem leaves_shiftResult_imp (s : State) (r : Byte × Bool) :
    Leaves [.a] [.c, .z, .n] [] s (shiftResult s .imp r) :=
  (leaves_shiftFlags s r).setReg .a r.1

theorem leaves_shiftResult_of_ne_imp {m : Operand} (hm : m ≠ .imp) (s : State) (r : Byte × Bool) :
    Leaves [] [.c, .z, .n] [(s.ea, r.1)] s (shiftResult s m r) := by
  rw [shiftResult, storeResult_of_ne_imp hm]
  exact (leaves_shiftFlags s r).trans (.store _ s.ea r.1)

/-- An operation that leaves a shift's result and the bit it moves out. -/
theorem perform_shift (s : State) (o : Op) (m : Operand) {r : State → Byte × Bool} {v : Byte} {c : Bool}
    (hr : r (dispatched s (baseCycles s.params o m.mode) m) = (v, c)) :
    ∃ t, perform s o m (fun d => shiftResult d m (r d)) = .next t ∧ Shifted s o m v c t := by
  obtain ⟨rfl, rfl⟩ := Prod.mk.inj hr
  obtain ⟨hc, hzn⟩ := shiftResult_flags (dispatched s (baseCycles s.params o m.mode) m) m
    (r (dispatched s (baseCycles s.params o m.mode) m))
  refine ⟨_, rfl, hc, hzn, fun hm => ?_, fun hm => Leaves.runsOn ?_⟩
  · subst hm
    exact ⟨rfl, (leaves_shiftResult_imp _ _).runsOn⟩
  · rw [← dispatched_ea s (baseCycles s.params o m.mode) m]
    exact leaves_shiftResult_of_ne_imp hm _ _

/-- Settles O18: the dispatch leaves the carry as it is, and the operand is the one the resolver found. -/
theorem shiftsMoveOneBit : Obligations.ShiftsMoveOneBit := by
  refine ⟨rfl, rfl, rfl, rfl, fun m s => ?_⟩
  have hm (base : Nat) := operandValue_dispatched s base m
  have hc (base : Nat) : (dispatched s base m).flag .c = s.flag .c := flag_dispatched s base m .c
  exact ⟨perform_shift s .asl m (by rw [hm, shiftLeft_eq]), perform_shift s .lsr m (by rw [hm, shiftRight_eq]),
    perform_shift s .rol m (by rw [hm, hc, rotateLeft_eq]), perform_shift s .ror m (by rw [hm, hc, rotateRight_eq])⟩

/-! The rotation through nine bits (R213, R214). -/

/-- C and A as the nine bits a rotation of A turns, C at the top. -/
def carryAndA (s : State) : BitVec 9 := BitVec.cons (s.flag .c) s.a

theorem carryAndA_inj {s t : State} (h : carryAndA t = carryAndA s) : t.a = s.a ∧ t.flag .c = s.flag .c := by
  have ha := congrArg (BitVec.setWidth 8) h
  have hc := congrArg BitVec.msb h
  simp only [carryAndA, BitVec.setWidth_cons, BitVec.msb_cons] at ha hc
  exact ⟨ha, hc⟩

/-- ROL turns the nine bits left by one place: C comes to bit 0, bit 7 to C, and every other bit moves up. -/
theorem cons_rotateLeft (c : Bool) (m : Byte) :
    BitVec.cons (rotateLeft c m).2 (rotateLeft c m).1 = (BitVec.cons c m).rotateLeft 1 := by
  ext i hi
  obtain rfl | rfl | ⟨hlo, hhi⟩ : i = 0 ∨ i = 8 ∨ 0 < i ∧ i < 8 := by omega
  · cases c <;> simp [rotateLeft, BitVec.getElem_cons, BitVec.getElem_rotateLeft]
  · simp [rotateLeft, BitVec.getElem_cons, BitVec.getElem_rotateLeft]
  · have h9 : i ≠ 9 := by omega
    cases c <;> simp [rotateLeft, BitVec.getElem_cons, BitVec.getElem_rotateLeft, hhi.ne, hlo.ne', h9]

/-- ROR turns the nine bits right by one place, which is left by eight: bit 0 comes to C, C to bit 7, and every other
bit moves down. -/
theorem cons_rotateRight (c : Bool) (m : Byte) :
    BitVec.cons (rotateRight c m).2 (rotateRight c m).1 = (BitVec.cons c m).rotateLeft 8 := by
  have htop : ∀ k, (h : k < 7) → (0x80#8)[k] = false := by decide
  ext i hi
  obtain rfl | rfl | hlt : i = 8 ∨ i = 7 ∨ i < 7 := by omega
  · simp [rotateRight, BitVec.getElem_cons, BitVec.getElem_rotateLeft]
  · cases c <;> simp [rotateRight, BitVec.getElem_cons, BitVec.getElem_rotateLeft]
  · have h8 : i < 8 := by omega
    have h1 : 1 + i < 8 := by omega
    have hmid : m.getLsbD (1 + i) = m[1 + i] := BitVec.getLsbD_eq_getElem h1
    cases c <;> simp [rotateRight, BitVec.getElem_cons, BitVec.getElem_rotateLeft, htop, hlt, h8, h8.ne, h1.ne, hmid]

/-- Turns of nine bits add up. -/
theorem rotateLeft_rotateLeft (x : BitVec 9) (j k : Nat) : (x.rotateLeft j).rotateLeft k = x.rotateLeft (j + k) := by
  ext i hi
  simp only [BitVec.getElem_rotateLeft]
  grind

/-- Nine equal turns of nine bits are full turns. -/
theorem rotateLeft_nine_mul (x : BitVec 9) (n : Nat) : x.rotateLeft (9 * n) = x := by
  rw [← BitVec.rotateLeft_mod_eq_rotateLeft, Nat.mul_mod_right]
  ext i hi
  simp [BitVec.getElem_rotateLeft]

/-- An instruction of one byte that turns C and A left by `n` places in every state. -/
def Turns (i : Instr) (n : Nat) : Prop :=
  ∀ s, ∃ t, exec i s = .next t ∧ carryAndA t = (carryAndA s).rotateLeft n ∧ t.pc = s.pc + 1

/-- A shift of A whose result and bit moved out are a turn of the old C and A. -/
theorem turns_of_shift {i : Instr} {o : Op} {r : Bool → Byte → Byte × Bool} {n : Nat}
    (hi : ∀ s, exec i s = perform s o .imp fun d => shiftResult d .imp (r (d.flag .c) d.a))
    (hr : ∀ c m, BitVec.cons (r c m).2 (r c m).1 = (BitVec.cons c m).rotateLeft n) : Turns i n := by
  intro s
  have hd (base : Nat) : r ((dispatched s base .imp).flag .c) (dispatched s base .imp).a = r (s.flag .c) s.a := by simp
  obtain ⟨t, ht, hc, -, himp, -⟩ :=
    perform_shift s o .imp (r := fun d => r (d.flag .c) d.a) (hd (baseCycles s.params o .imp))
  obtain ⟨ha, -, hpc, -⟩ := himp rfl
  exact ⟨t, (hi s).trans ht, by rw [carryAndA, hc, ha, hr, carryAndA], hpc.trans (BitVec.add_zero _)⟩

theorem turns_rol : Turns (.rol .imp) 1 := turns_of_shift (fun _ => rfl) cons_rotateLeft

theorem turns_ror : Turns (.ror .imp) 8 := turns_of_shift (fun _ => rfl) cons_rotateRight

theorem execTimes_succ {i : Instr} {s t : State} (h : exec i s = .next t) (k : Nat) :
    execTimes i (k + 1) s = execTimes i k t := by
  rw [execTimes, h]

/-- Turns run one after another add up. -/
theorem Turns.times {i : Instr} {n : Nat} (h : Turns i n) (k : Nat) (s : State) :
    ∃ t, execTimes i k s = .next t ∧ carryAndA t = (carryAndA s).rotateLeft (k * n) ∧
      t.pc = s.pc + BitVec.ofNat 16 k := by
  induction k generalizing s with
  | zero =>
    rw [Nat.zero_mul]
    exact ⟨s, rfl, (rotateLeft_nine_mul _ 0).symm, (BitVec.add_zero s.pc).symm⟩
  | succ k ih =>
    obtain ⟨u, hu, hturn, hpc⟩ := h s
    obtain ⟨t, ht, hturns, hpcs⟩ := ih u
    refine ⟨t, (execTimes_succ hu k).trans ht, ?_, ?_⟩
    · rw [hturns, hturn, rotateLeft_rotateLeft, Nat.add_comm n, Nat.succ_mul]
    · rw [hpcs, hpc, BitVec.add_assoc, BitVec.ofNat_add, BitVec.add_comm 1]
      rfl

/-- Nine turns by the same number of places leave A and C as they were. -/
theorem Turns.nine_times {i : Instr} {n : Nat} (h : Turns i n) (s : State) :
    ∃ t, execTimes i 9 s = .next t ∧ t.a = s.a ∧ t.flag .c = s.flag .c ∧ t.pc = s.pc + 9 := by
  obtain ⟨t, ht, hturns, hpc⟩ := h.times 9 s
  rw [rotateLeft_nine_mul] at hturns
  obtain ⟨ha, hc⟩ := carryAndA_inj hturns
  exact ⟨t, ht, ha, hc, hpc⟩

/-- Settles O19: each rotation turns nine bits by a fixed number of places. -/
theorem nineRotationsRestoreTheAccumulator : Obligations.NineRotationsRestoreTheAccumulator :=
  fun s => ⟨turns_rol.nine_times s, turns_ror.nine_times s⟩

end Sys2Proof.Machine
end

section
/-! Branches (45_branch.md): an operation that writes PC alone, the target and the cycles of a branch, and the flag each
of the eight tests. -/

namespace Sys2Proof.Machine

/-- An operation that writes PC alone: everything else is as the dispatch leaves it. -/
theorem performWith_setPc (s : State) (o : Op) (m : Operand) {f : State → State × Nat} {pc : Word} {extra : Nat}
    (hf : f (dispatched s (baseCycles s.params o m.mode) m) =
      ((dispatched s (baseCycles s.params o m.mode) m).setPc pc, extra)) :
    ∃ t, performWith s o m f = .next t ∧ t.pc = pc ∧ DispatchEffects s o m extra t ∧ KeepsRegisters [] s t ∧
      KeepsFlags [] s t ∧ t.flag .u = true ∧ StoresExactly [] s t := by
  refine ⟨_, rfl, by simp [runEntry, hf], ?effects, fun r _ => ?register, fun g _ hu => by simp [runEntry, hf, hu],
    by simp [runEntry, hf], ?stores⟩
  case effects =>
    exact dispatchEffects_runEntry hf rfl rfl rfl rfl (dispatched_ticks s _ m) (dispatched_params s _ m)
      (dispatched_schedule s _ m) (geometry_dispatched s _ m)
  case register => cases r <;> simp [runEntry, hf, State.reg]
  case stores =>
    rw [runEntry, hf]
    exact storesExactly_nil (dispatched_storage s _ m)

/-- Two addresses lie in one page exactly when their high bytes agree. -/
theorem hiByte_eq_iff {v w : Word} : hiByte v = hiByte w ↔ v.toNat / 256 = w.toNat / 256 := by
  rw [← BitVec.toNat_inj, hiByte_toNat, hiByte_toNat]

theorem followingPc_rel (s : State) (off : Byte) : followingPc s (.rel off) = s.pc + 2 :=
  BitVec.add_assoc s.pc 1 1

/-- Adding the extended offset is adding the signed offset modulo 65536. -/
theorem add_sext16 (pc : Word) (off : Byte) : pc + sext16 off = BitVec.ofInt 16 (pc.toNat + off.toInt) := by
  rw [BitVec.ofInt_add, BitVec.ofInt_natCast, BitVec.ofNat_toNat, BitVec.setWidth_eq]
  rfl

/-- The address a branch at the PC of `s` goes to when taken (R220). -/
def branchTarget (s : State) (off : Byte) : Word := BitVec.ofInt 16 ((s.pc + 2).toNat + off.toInt)

/-- A branch writes PC alone: its target with one cycle when taken, two to another page, or the following address with
none (R220). -/
theorem branch_dispatched (s : State) (base : Nat) (off : Byte) (taken : Bool) :
    branch (dispatched s base (.rel off)) taken =
      ((dispatched s base (.rel off)).setPc (if taken then branchTarget s off else s.pc + 2),
        if taken then if (branchTarget s off).toNat / 256 = (s.pc + 2).toNat / 256 then 1 else 2 else 0) := by
  have hpc : (dispatched s base (.rel off)).pc = s.pc + 2 := by rw [dispatched_pc, followingPc_rel]
  cases taken with
  | false =>
    rw [← hpc]
    rfl
  | true =>
    have htarget : s.pc + 2 + (dispatched s base (.rel off)).rel = branchTarget s off := add_sext16 (s.pc + 2) off
    simp only [branch, if_true, hpc, htarget, hiByte_eq_iff]

/-- What makes a row of `branchConditions` a branch: its encoding, its base count, and an operation that branches on
its flag, which is not U, the one the dispatch sets. -/
structure IsBranchRow (e : (Byte → Instr) × Op × Byte × Flag × Bool) : Prop where
  encode (off : Byte) : encode (e.1 off) = [e.2.2.1, off]
  cycles : defaultBaseCycles e.2.2.1 = 2
  flag_ne_u : e.2.2.2.1 ≠ .u
  exec (off : Byte) (s : State) :
    exec (e.1 off) s = performWith s e.2.1 (.rel off) fun d => branch d (d.flag e.2.2.2.1 == e.2.2.2.2)

/-- The four branches on a set flag test the flag itself (R222, R223, R225, R228), those on a clear flag its negation
(R221, R224, R226, R227). -/
theorem isBranchRow_of_mem : ∀ e ∈ branchConditions, IsBranchRow e := by
  simp only [branchConditions, List.forall_mem_cons]
  refine ⟨?bcc, ?bcs, ?beq, ?bne, ?bmi, ?bpl, ?bvc, ?bvs, List.forall_mem_nil _⟩
  case bcs | beq | bmi | bvs =>
    exact ⟨fun _ => rfl, rfl, by decide, fun _ _ => by simp only [beq_true]; rfl⟩
  case bcc | bne | bpl | bvc =>
    exact ⟨fun _ => rfl, rfl, by decide, fun _ _ => by simp only [beq_false]; rfl⟩

/-- Settles O20: a branch writes PC alone, and the dispatch leaves the flag it tests as it is. -/
theorem branchesFollowTheirFlag : Obligations.BranchesFollowTheirFlag := by
  intro e hmem off s
  have he := isBranchRow_of_mem e hmem
  obtain ⟨t, ht, hpc, heffects, hregs, hflags, hu, hstores⟩ := performWith_setPc s e.2.1 (.rel off)
    (f := fun d => branch d (d.flag e.2.2.2.1 == e.2.2.2.2)) (branch_dispatched s _ off _)
  rw [flag_dispatched, if_neg he.flag_ne_u] at hpc heffects
  refine ⟨he.encode off, he.cycles, t, branchTarget s off, (he.exec off s).trans ht, rfl, hregs, hflags, hu, hstores,
    fun htaken => ?_, fun hnot => ?_⟩
  · rw [beq_iff_eq.mpr htaken] at hpc heffects
    exact ⟨hpc, heffects⟩
  · rw [beq_eq_false_iff_ne.mpr hnot] at hpc heffects
    exact ⟨hpc, heffects⟩

end Sys2Proof.Machine
end

section
/-! Jumps and subroutines (46_jump_subroutine.md): the target of a jump is the effective address the dispatch leaves,
and JSR and RTS move a 16-bit value to and from the stack before they write PC. -/

namespace Sys2Proof.Machine

/-- JMP writes PC alone, with the effective address of its form (R235, R236). -/
theorem exec_jmp_spec (m : Operand) (s : State) :
    ∃ t, exec (.jmp m) s = .next t ∧ t.pc = targetAddress s m ∧ DispatchEffects s .jmp m 0 t ∧
      KeepsRegisters [] s t ∧ KeepsFlags [] s t ∧ t.flag .u = true ∧ StoresExactly [] s t :=
  performWith_setPc s .jmp m (f := fun d => (opJmp d, 0)) (by rw [opJmp, dispatched_ea])

/-- Settles O21: the target is the address the resolver computed, in the indirect form that of the pointer. -/
theorem jumpsLoadTheirTarget : Obligations.JumpsLoadTheirTarget := by
  refine ⟨rfl, rfl, rfl, fun lo hi s => ⟨?absolute, ?indirect⟩⟩
  case absolute =>
    obtain ⟨t, ht, hpc, hrest⟩ := exec_jmp_spec (.abs lo hi) s
    exact ⟨t, ht, by rw [hpc]; exact word_toNat hi lo, hrest⟩
  case indirect =>
    obtain ⟨t, ht, hpc, hrest⟩ := exec_jmp_spec (.ind lo hi) s
    have htarget : targetAddress s (.ind lo hi) = indirectPointer s lo hi := indirectPointer_atOperands s lo hi
    exact ⟨t, ht, by rw [hpc, htarget, indirectPointer_toNat], hrest⟩

/-- An operation that ends by writing PC: PC is the value written, and everything else is as the part before leaves
it. -/
theorem perform_setPc (s : State) (o : Op) (m : Operand) {g : State → State} {pc : State → Word} {regs : List Reg}
    {flags : List Flag} {stores : List (Word × Byte)}
    (hg : Leaves regs flags stores (dispatched s (baseCycles s.params o m.mode) m)
      (g (dispatched s (baseCycles s.params o m.mode) m))) :
    ∃ t, perform s o m (fun d => (g d).setPc (pc d)) = .next t ∧
      t.pc = pc (dispatched s (baseCycles s.params o m.mode) m) ∧
      (∀ r, t.reg r = (g (dispatched s (baseCycles s.params o m.mode) m)).reg r) ∧ DispatchEffects s o m 0 t ∧
      KeepsRegisters regs s t ∧ KeepsFlags flags s t ∧ t.flag .u = true ∧ StoresExactly stores s t := by
  obtain ⟨heffects, -, hregs, hflags, hu, hstores⟩ := hg.runsOn
  refine ⟨_, rfl, rfl, fun r => by cases r <;> rfl, heffects, fun r hr => ?register, hflags, hu,
    hstores.to_same ⟨rfl, rfl, rfl, rfl, rfl⟩⟩
  case register => cases r <;> exact hregs _ hr

/-- A 16-bit push is two stores and one write of SP. -/
theorem push16_eq (s : State) (v : Word) : push16 s v =
    (memWrite (memWrite s (stackSlot s.sp) (hiByte v)) (stackSlot (s.sp - 1)) (loByte v)).setSp (s.sp - 2) := by
  have hsp : s.sp - 1 - 1 = s.sp - 2 := by rw [BitVec.sub_sub]; rfl
  rw [push16, push_eq, push_sp, hsp, push_eq, memWrite_setSp]
  rfl

/-- A 16-bit push changes SP and the two bytes it stores, and nothing else. -/
theorem leaves_push16 (s : State) (v : Word) :
    Leaves [.sp] [] [(stackSlot (s.sp - 1), loByte v), (stackSlot s.sp, hiByte v)] s (push16 s v) := by
  rw [push16_eq]
  exact ((Leaves.store s _ _).trans (.store _ _ _)).setReg .sp _

/-- JSR finds PC past its operand bytes, one byte past the address it pushes. -/
theorem followingPc_abs_sub_one (s : State) (lo hi : Byte) : followingPc s (.abs lo hi) - 1 = s.pc + 2 := by
  change s.pc + 1 + 2 - 1 = s.pc + 2
  bv_omega

/-- Settles O22: the operation pushes the address before the following one, and the dispatch leaves SP as it is. -/
theorem jsrPushesTheAddressOfItsLastByte : Obligations.JsrPushesTheAddressOfItsLastByte := by
  intro lo hi s
  obtain ⟨t, ht, hpc, hreg, hrest⟩ := perform_setPc s .jsr (.abs lo hi) (g := fun d => push16 d (d.pc - 1))
    (pc := State.ea) (leaves_push16 _ _)
  rw [dispatched_sp, dispatched_pc, followingPc_abs_sub_one] at hrest
  rw [dispatched_ea] at hpc
  have hsp : t.sp = s.sp - 2 := by
    have h := hreg .sp
    rwa [push16_eq, dispatched_sp] at h
  exact ⟨rfl, rfl, t, ht, by rw [hpc]; exact word_toNat hi lo, hsp, hrest⟩

/-- RTS is a pop of 16 bits, after which PC is written. -/
theorem opRts_eq : opRts = fun d => (d.setReg .sp (d.sp + 2)).setPc
    (word (memRead d (stackSlot (d.sp + 2))) (memRead d (stackSlot (d.sp + 1))) + 1) :=
  funext fun d => by rw [opRts, pop16_eq]; rfl

/-- Settles O23: the dispatch leaves SP and memory as they are, so the bytes popped are those of the state before. -/
theorem rtsReturnsPastThePoppedAddress : Obligations.RtsReturnsPastThePoppedAddress := by
  refine ⟨⟨rfl, rfl⟩, fun s => ?_⟩
  obtain ⟨t, ht, hpc, hreg, hrest⟩ := perform_setPc s .rts .imp (g := fun d => d.setReg .sp (d.sp + 2))
    (pc := fun d => word (memRead d (stackSlot (d.sp + 2))) (memRead d (stackSlot (d.sp + 1))) + 1)
    ((Leaves.refl _).setReg .sp _)
  rw [← opRts_eq] at ht
  simp only [dispatched_sp, memRead_dispatched] at hpc
  have hsp : t.sp = s.sp + 2 := by
    have h := hreg .sp
    rwa [State.reg_setReg, if_pos rfl, dispatched_sp] at h
  exact ⟨t, ht, by rw [hpc, BitVec.toNat_add, word_toNat]; rfl, hsp, hrest⟩

/-- The two stack locations of a 16-bit push read as its bytes, wherever SP stands: they are different bytes of RAM,
also where the push wraps around the stack page (R23). -/
theorem memRead_of_pushed16 {s t : State} {sp lo hi : Byte}
    (h : StoresExactly [(stackSlot (sp - 1), lo), (stackSlot sp, hi)] s t) :
    memRead t (stackSlot sp) = hi ∧ memRead t (stackSlot (sp - 1)) = lo := by
  obtain ⟨hread, -⟩ := h
  have hne : sp ≠ sp - 1 := by bv_omega
  simp only [hread, readAfterStores, sameStorage_stackSlot, hne, decide_true, decide_false, if_true, Bool.false_eq_true,
    if_false, and_self]

/-- Settles O24: RTS pops the two bytes JSR pushed, which are the address before the following instruction. -/
theorem rtsReturnsFromJsr : Obligations.RtsReturnsFromJsr := by
  intro lo hi s
  obtain ⟨-, -, t, ht, -, htsp, -, htregs, htflags, -, hpushed⟩ := jsrPushesTheAddressOfItsLastByte lo hi s
  obtain ⟨-, hrts⟩ := rtsReturnsPastThePoppedAddress
  obtain ⟨u, hu, hpc, husp, -, huregs, huflags, -⟩ := hrts t
  have hhigh : t.sp + 2 = s.sp := by rw [htsp, BitVec.sub_add_cancel]
  have hlow : t.sp + 1 = s.sp - 1 := by rw [htsp]; bv_omega
  obtain ⟨hhi, hlo⟩ := memRead_of_pushed16 hpushed
  refine ⟨t, u, ht, hu, BitVec.eq_of_toNat_eq ?pc, fun r _ => ?register, fun f hf hfu => ?flag⟩
  case pc =>
    rw [hpc, hhigh, hlow, hhi, hlo, hiByte_toNat, loByte_toNat, Nat.div_add_mod]
    bv_omega
  case register =>
    rcases eq_or_ne r .sp with rfl | hr
    · exact husp.trans hhigh
    · have hmem : r ∉ [Reg.sp] := mt List.mem_singleton.mp hr
      exact (huregs r hmem).trans (htregs r hmem)
  case flag => exact (huflags f hf hfu).trans (htflags f hf hfu)

end Sys2Proof.Machine
end

section
/-! Pushes and pops (47_stack_flags.md): a byte goes from a register to the stack location of SP or from the one above
it to a register (10_state.md R24, R25). -/

namespace Sys2Proof.Machine

/-- What an instruction shows and leaves alone, from what its operation makes of the state the dispatch leaves. -/
theorem perform_leaves {s u : State} {o : Op} {m : Operand} {f : State → State} {regs : List Reg} {flags : List Flag}
    {stores : List (Word × Byte)} (hf : f (dispatched s (baseCycles s.params o m.mode) m) = u)
    (h : Leaves regs flags stores (dispatched s (baseCycles s.params o m.mode) m) u) :
    ∃ t, perform s o m f = .next t ∧ (∀ r, t.reg r = u.reg r) ∧ (∀ g, t.flag g = u.flag g) ∧
      RunsOn s o m regs flags stores t := by
  subst hf
  exact ⟨_, rfl, fun r => by cases r <;> rfl, fun _ => rfl, h.runsOn⟩

/-- A push is one store and one write of SP (R24). -/
theorem leaves_push (s : State) (v : Byte) : Leaves [.sp] [] [(stackSlot s.sp, v)] s (push s v) := by
  rw [push_eq]
  exact (Leaves.store s _ v).setReg .sp _

/-- PHA's operation on the state the dispatch leaves (R245). -/
theorem opPha_dispatched (s : State) (base : Nat) :
    opPha (dispatched s base .imp) = push (dispatched s base .imp) s.a := by
  rw [opPha, dispatched_a]

/-- PLA is a pop to A with Z and N of the byte (R246). -/
theorem opPla_eq : opPla = fun d => ((d.setReg .sp (d.sp + 1)).setReg .a (memRead d (stackSlot (d.sp + 1)))).setZN
    (memRead d (stackSlot (d.sp + 1))) :=
  funext fun d => by rw [opPla, pop_eq]; rfl

/-- Settles O25: PHA is a push of A, PLA a pop to A, and the dispatch leaves A, SP and memory as they are. -/
theorem phaAndPlaMoveAByte : Obligations.PhaAndPlaMoveAByte := by
  refine ⟨⟨rfl, rfl⟩, ⟨rfl, rfl⟩, fun s => ⟨?pha, ?pla⟩⟩
  case pha =>
    have hpush := leaves_push (dispatched s (baseCycles s.params .pha .imp) .imp) s.a
    obtain ⟨t, ht, hreg, -, hrun⟩ := perform_leaves (o := .pha) (m := .imp) (opPha_dispatched s _) hpush
    rw [dispatched_sp] at hrun
    exact ⟨t, ht, (hreg .sp).trans (by simp [State.reg]), hrun⟩
  case pla =>
    obtain ⟨t, ht, hreg, hzn, hrun⟩ := perform_setZN s .pla .imp (b := memRead s (stackSlot (s.sp + 1)))
      (v := fun d => memRead d (stackSlot (d.sp + 1)))
      (fun d => ((Leaves.refl d).setReg .sp (d.sp + 1)).setReg .a (memRead d (stackSlot (d.sp + 1))))
      (by rw [dispatched_sp, memRead_dispatched])
    rw [← opPla_eq] at ht
    have hsp : t.sp = s.sp + 1 := (hreg .sp).trans (by simp [State.setReg, State.reg])
    have ha : t.a = memRead s (stackSlot (s.sp + 1)) := (hreg .a).trans (by simp)
    exact ⟨t, ht, hsp, ha, by rwa [ha], hrun⟩

/-- An operation that ends by writing P and then PC: everything else is as the part before leaves it. -/
theorem perform_setP_setPc (s : State) (o : Op) (m : Operand) {g : State → State} {p : State → Byte}
    {pc : State → Word} {regs : List Reg} {flags : List Flag} {stores : List (Word × Byte)}
    (hg : Leaves regs flags stores (dispatched s (baseCycles s.params o m.mode) m)
      (g (dispatched s (baseCycles s.params o m.mode) m))) :
    ∃ t, perform s o m (fun d => ((g d).setP (p d)).setPc (pc d)) = .next t ∧
      t.p = p (dispatched s (baseCycles s.params o m.mode) m) ∧
      t.pc = pc (dispatched s (baseCycles s.params o m.mode) m) ∧
      (∀ r, t.reg r = (g (dispatched s (baseCycles s.params o m.mode) m)).reg r) ∧ DispatchEffects s o m 0 t ∧
      KeepsRegisters regs s t ∧ StoresExactly stores s t := by
  obtain ⟨heffects, -, hregs, -, -, hstores⟩ := hg.runsOn
  refine ⟨_, rfl, rfl, rfl, fun r => by cases r <;> rfl, heffects, fun r hr => ?register,
    hstores.to_same ⟨rfl, rfl, rfl, rfl, rfl⟩⟩
  case register => cases r <;> exact hregs _ hr

/-- PHP's pushed byte: the dispatch sets U, so it has B and U set and the rest of P (R247). -/
theorem withFlag_u_or (p : Byte) : withFlag p .u true ||| 0x30 = p ||| 0x30 := by
  change (p ||| 0x20) ||| 0x30 = p ||| 0x30
  rw [BitVec.or_assoc]
  rfl

/-- PHP is a push of P with B and U set, after which both are cleared in P (R247). -/
theorem opPhp_eq : opPhp = fun d => ((push d (d.p ||| 0x30)).setP (withFlag (withFlag d.p .b false) .u false)).setPc
    d.pc := by
  funext d
  have hp := push_p d (d.p ||| 0x30)
  have hpc := push_pc d (d.p ||| 0x30)
  simp only [opPhp, State.setFlag, State.setP_p, hp, ← hpc]
  rfl

/-- Settles O26: PHP pushes P, which the dispatch changes in U alone, and clears two flags. -/
theorem phpPushesTheStatus : Obligations.PhpPushesTheStatus := by
  refine ⟨⟨rfl, rfl⟩, fun s => ?_⟩
  obtain ⟨t, ht, hp, hpc, hreg, heffects, hregs, hstores⟩ := perform_setP_setPc s .php .imp
    (g := fun d => push d (d.p ||| 0x30)) (p := fun d => withFlag (withFlag d.p .b false) .u false) (pc := State.pc)
    (leaves_push _ _)
  rw [← opPhp_eq] at ht
  rw [dispatched_sp, dispatched_p, withFlag_u_or] at hstores
  have hsp : t.sp = s.sp - 1 := (hreg .sp).trans (by simp [State.reg])
  have hflag (f : Flag) : t.flag f = if f = .u then false else if f = .b then false else s.flag f := by
    rw [State.flag, hp, getFlag_withFlag, getFlag_withFlag, dispatched_p, getFlag_withFlag]
    split <;> rfl
  refine ⟨t, ht, hsp, hflag .b, hflag .u, hpc, heffects, hregs, fun f hf hu => ?keeps, hstores⟩
  case keeps => rw [hflag, if_neg hu, if_neg (List.ne_of_not_mem_cons hf)]

/-- An operation that pops the status and moves SP up in all by `n`, and then writes PC. -/
theorem perform_popStatus (s : State) (o : Op) (n : Byte) (pc : State → Word) :
    ∃ t, perform s o .imp (fun d => ((d.setReg .sp (d.sp + n)).setP
        (memRead d (stackSlot (d.sp + 1)) ||| 0x20)).setPc (pc d)) = .next t ∧
      t.sp = s.sp + n ∧ t.flag .u = true ∧
      (∀ f, f ≠ .u → t.flag f = getFlag (memRead s (stackSlot (s.sp + 1))) f) ∧
      t.pc = pc (dispatched s (baseCycles s.params o .imp) .imp) ∧ DispatchEffects s o .imp 0 t ∧
      KeepsRegisters [.sp] s t ∧ StoresExactly [] s t := by
  obtain ⟨t, ht, hp, hpc, hreg, hrest⟩ := perform_setP_setPc s o .imp (g := fun d => d.setReg .sp (d.sp + n))
    (p := fun d => memRead d (stackSlot (d.sp + 1)) ||| 0x20) (pc := pc) ((Leaves.refl _).setReg .sp _)
  have hsp : t.sp = s.sp + n := by
    have h := hreg .sp
    rwa [State.reg_setReg, if_pos rfl, dispatched_sp] at h
  have hflag (f : Flag) : t.flag f = if f = .u then true else getFlag (memRead s (stackSlot (s.sp + 1))) f := by
    rw [State.flag, hp, dispatched_sp, memRead_dispatched]
    exact getFlag_withFlag _ .u f true
  exact ⟨t, ht, hsp, hflag .u, fun f hf => (hflag f).trans (if_neg hf), hpc, hrest⟩

/-- PLP pops the status and leaves PC to the dispatch (R248). -/
theorem opPlp_eq : opPlp = fun d => ((d.setReg .sp (d.sp + 1)).setP
    (memRead d (stackSlot (d.sp + 1)) ||| 0x20)).setPc d.pc :=
  funext fun d => by rw [opPlp, popStatus_eq]; rfl

/-- Settles O27: PLP pops the byte above SP, which the dispatch leaves where it is, with U set. -/
theorem plpRestoresTheStatus : Obligations.PlpRestoresTheStatus := by
  refine ⟨⟨rfl, rfl⟩, fun s => ?_⟩
  obtain ⟨t, ht, hrest⟩ := perform_popStatus s .plp 1 State.pc
  rw [← opPlp_eq] at ht
  exact ⟨t, ht, hrest⟩

end Sys2Proof.Machine
end

section
/-! Handlers (60_exceptions.md, 48_system.md R265, R268): BRK and the interrupts enter one the same way, and RTI pops
what the entry pushed. -/

namespace Sys2Proof.Machine

/-- RTI pops the status and then PC, with no increment (R268). -/
theorem opRti_eq : opRti = fun d => ((d.setReg .sp (d.sp + 3)).setP
    (memRead d (stackSlot (d.sp + 1)) ||| 0x20)).setPc
      (word (memRead d (stackSlot (d.sp + 3))) (memRead d (stackSlot (d.sp + 2)))) :=
  funext returnFromHandler_eq

/-- Settles O30: the dispatch leaves SP and memory as they are, so the bytes popped are those of the state before. -/
theorem rtiRestoresStatusAndPc : Obligations.RtiRestoresStatusAndPc := by
  refine ⟨⟨rfl, rfl⟩, fun s => ?_⟩
  obtain ⟨t, ht, hsp, hu, hflag, hpc, hrest⟩ := perform_popStatus s .rti 3 fun d =>
    word (memRead d (stackSlot (d.sp + 3))) (memRead d (stackSlot (d.sp + 2)))
  rw [← opRti_eq] at ht
  simp only [dispatched_sp, memRead_dispatched] at hpc
  exact ⟨t, ht, hsp, hu, hflag, by rw [hpc, word_toNat], hrest⟩

/-- What the dispatch of an instruction settles and an operation leaves alone: the latches, CYC, and what no instruction
touches. -/
structure KeepsDispatch (s t : State) : Prop where
  cyc : t.cyc = s.cyc
  ea : t.ea = s.ea
  rel : t.rel = s.rel
  fetched : t.fetched = s.fetched
  ticks : t.ticks = s.ticks
  params : t.params = s.params
  schedule : t.schedule = s.schedule
  geometry : geometry t = geometry s

/-- The dispatch effects of an instruction whose operation leaves alone what the dispatch settles. -/
theorem KeepsDispatch.dispatchEffects {s u : State} {o : Op} {m : Operand} {f : State → State}
    (h : KeepsDispatch (dispatched s (baseCycles s.params o m.mode) m) u)
    (hf : f (dispatched s (baseCycles s.params o m.mode) m) = u) :
    ∃ cost, perform s o m f = .next (u.setCyc cost) ∧ DispatchEffects s o m 0 (u.setCyc cost) := by
  subst hf
  exact ⟨_, rfl, dispatchEffects_runEntry (f := fun d => (f d, 0)) rfl h.cyc h.ea h.rel h.fetched
    (h.ticks.trans (dispatched_ticks ..)) (h.params.trans (dispatched_params ..))
    (h.schedule.trans (dispatched_schedule ..)) (h.geometry.trans (geometry_dispatched ..))⟩

/-- How a handler is entered (R265, R294): PC and P with B as given and U set are pushed, B is clear and U and I are
set, and PC is the word at the vector. -/
structure EntersHandler (s : State) (vector : Word) (brk : Bool) (t : State) : Prop where
  sp : t.sp = s.sp - 3
  b : t.flag .b = false
  u : t.flag .u = true
  i : t.flag .i = true
  pc : t.pc.toNat = 256 * (memRead t (vector + 1)).toNat + (memRead t vector).toNat
  registers : KeepsRegisters [.sp] s t
  flags : KeepsFlags [.b, .i] s t
  stores : StoresExactly [(stackSlot (s.sp - 2), withFlag (withFlag s.p .b brk) .u true),
    (stackSlot (s.sp - 1), loByte s.pc), (stackSlot s.sp, hiByte s.pc)] s t

/-- The entry leaves the latches, CYC and the environment alone (R34, log entry 6). -/
theorem keepsDispatch_enterHandler (s : State) (vector : Word) (brk : Bool) :
    KeepsDispatch s (enterHandler s vector brk) := by
  obtain ⟨-, -, -, -, -, -, -, hcyc, hea, hrel, hfetched, hticks, hparams, hschedule, hgeometry, -⟩ :=
    enterHandler_spec s vector brk
  exact ⟨hcyc, hea, hrel, hfetched, hticks, hparams, hschedule, hgeometry⟩

/-- BRK and the interrupts differ in the vector and in the B they push (R299). -/
theorem entersHandler (s : State) (vector : Word) (brk : Bool) :
    EntersHandler s vector brk (enterHandler s vector brk) := by
  obtain ⟨hsp, hpc, hflag, hstores, ha, hx, hy, -⟩ := enterHandler_spec s vector brk
  refine ⟨hsp, hflag .b, hflag .u, hflag .i, by rw [hpc, memRead16_toNat], fun r hr => ?register,
    fun f hf hu => ?flag, hstores⟩
  case register =>
    cases r with
    | a => exact ha
    | x => exact hx
    | y => exact hy
    | sp => exact absurd (List.mem_singleton_self _) hr
  case flag =>
    simp only [List.mem_cons, List.not_mem_nil, or_false, not_or] at hf
    obtain ⟨hb, hi⟩ := hf
    rw [hflag, if_neg hi, if_neg hb, if_neg hu]

/-- A cost left in CYC afterwards does not show. -/
theorem EntersHandler.setCyc {s t : State} {vector : Word} {brk : Bool} (h : EntersHandler s vector brk t) (n : Nat) :
    EntersHandler s vector brk (t.setCyc n) where
  sp := h.sp
  b := h.b
  u := h.u
  i := h.i
  pc := by simpa using h.pc
  registers r hr := (by cases r <;> rfl : (t.setCyc n).reg r = t.reg r).trans (h.registers r hr)
  flags := h.flags
  stores := h.stores.to_same ⟨rfl, rfl, rfl, rfl, rfl⟩

/-- BRK's pushed byte: the dispatch sets U, so it has B and U set and the rest of P (R265). -/
theorem withFlag_b_withFlag_u (p : Byte) : withFlag (withFlag (withFlag p .u true) .b true) .u true = p ||| 0x30 := by
  change p ||| 0x20 ||| 0x10 ||| 0x20 = p ||| 0x30
  simp only [BitVec.or_assoc]
  rfl

/-- BRK runs its operation with PC past the signature byte (R265). -/
theorem opBrk_dispatched (s : State) (base : Nat) : opBrk (dispatched s base .imp) =
    enterHandler ((dispatched s base .imp).setPc (s.pc + 2)) Config.irqVector true := by
  have hpc : (dispatched s base .imp).pc + 1 = s.pc + 2 := BitVec.add_assoc s.pc 1 1
  rw [opBrk, hpc]

/-- Settles O29: the operation enters the handler with PC past the signature byte, and the dispatch has set U. -/
theorem brkTrapsThroughTheIrqVector : Obligations.BrkTrapsThroughTheIrqVector := by
  refine ⟨⟨rfl, rfl⟩, fun s => ?_⟩
  have hop := opBrk_dispatched s (baseCycles s.params .brk .imp)
  have hkeeps := keepsDispatch_enterHandler
    ((dispatched s (baseCycles s.params .brk .imp) .imp).setPc (s.pc + 2)) Config.irqVector true
  have henters := entersHandler
    ((dispatched s (baseCycles s.params .brk .imp) .imp).setPc (s.pc + 2)) Config.irqVector true
  generalize enterHandler _ Config.irqVector true = u at hop hkeeps henters
  obtain ⟨cost, ht, heffects⟩ := KeepsDispatch.dispatchEffects (o := .brk) (m := .imp) { hkeeps with } hop
  obtain ⟨hsp, hb, hu, hi, hpc, hregs, hflags, hstores⟩ := henters.setCyc cost
  simp only [State.setPc_sp, State.setPc_p, State.setPc_pc, dispatched_sp, dispatched_p, withFlag_b_withFlag_u]
    at hsp hstores
  refine ⟨_, ht, hsp, hb, hu, hi, hpc, heffects, fun r hr => ?register,
    fun f hf hne => ?flag, hstores.of_same (t := (dispatched s _ .imp).setPc _) (dispatched_storage s _ .imp)⟩
  case register => exact (hregs r hr).trans (reg_dispatched s (baseCycles s.params .brk .imp) .imp r)
  case flag => exact (hflags f hf hne).trans ((flag_dispatched ..).trans (if_neg hne))

/-- Settles O36: the gate of `irq` is I, and `nmi` has none. -/
theorem irqIsGatedAndNmiIsNot : Obligations.IrqIsGatedAndNmiIsNot := by
  refine fun s => ⟨fun h => if_pos h, fun h => if_neg ?masked, rfl⟩
  case masked => rw [h]; decide

/-- An interrupt's pushed byte: P with B clear and U set (R294). -/
theorem withFlag_u_withFlag_b (p : Byte) : withFlag (withFlag p .b false) .u true = (p &&& 0xEF) ||| 0x20 := rfl

/-- An interrupt entry enters the handler with the live U and I pushed, and leaves its count in CYC (R294). -/
theorem entersHandler_enterInterrupt (s : State) (vector : Word) (cycles : Nat) :
    EntersHandler s vector false (enterInterrupt s vector cycles) :=
  (entersHandler s vector false).setCyc cycles

/-- The three stack locations of a handler's entry read as the bytes pushed, wherever SP stands: they are different
bytes of RAM, also where the pushes wrap around the stack page (R23). -/
theorem EntersHandler.memRead_stack {s t : State} {vector : Word} {brk : Bool} (h : EntersHandler s vector brk t) :
    memRead t (stackSlot (s.sp - 2)) = withFlag (withFlag s.p .b brk) .u true ∧
      memRead t (stackSlot (s.sp - 1)) = loByte s.pc ∧ memRead t (stackSlot s.sp) = hiByte s.pc := by
  obtain ⟨hread, -⟩ := h.stores
  have h01 : s.sp ≠ s.sp - 1 := by bv_omega
  have h02 : s.sp ≠ s.sp - 2 := by bv_omega
  have h12 : s.sp - 1 ≠ s.sp - 2 := by bv_omega
  simp only [hread, readAfterStores, sameStorage_stackSlot, h01, h02, h12, decide_true, decide_false, if_true,
    Bool.false_eq_true, if_false, and_self]

/-- An RTI right after a handler's entry pops what the entry pushed (R268). -/
theorem EntersHandler.exec_rti {s t : State} {vector : Word} {brk : Bool} (h : EntersHandler s vector brk t) :
    ∃ u, exec .rti t = .next u ∧ u.pc = s.pc ∧ KeepsRegisters [] s u ∧
      ∀ f, u.flag f = if f = .u then true else if f = .b then brk else s.flag f := by
  obtain ⟨-, hrti⟩ := rtiRestoresStatusAndPc
  obtain ⟨u, hu, husp, huu, huflag, hupc, -, huregs, -⟩ := hrti t
  have hstatus : t.sp + 1 = s.sp - 2 := by rw [h.sp]; bv_omega
  have hlow : t.sp + 2 = s.sp - 1 := by rw [h.sp]; bv_omega
  have hhigh : t.sp + 3 = s.sp := by rw [h.sp, BitVec.sub_add_cancel]
  obtain ⟨hp, hlo, hhi⟩ := h.memRead_stack
  rw [hlow, hhigh, hlo, hhi, hiByte_toNat, loByte_toNat, Nat.div_add_mod] at hupc
  rw [hstatus, hp] at huflag
  refine ⟨u, hu, BitVec.eq_of_toNat_eq hupc, fun r _ => ?register, fun f => ?flag⟩
  case register =>
    rcases eq_or_ne r .sp with rfl | hr
    · exact husp.trans hhigh
    · have hmem : r ∉ [Reg.sp] := mt List.mem_singleton.mp hr
      exact (huregs r hmem).trans (h.registers r hmem)
  case flag =>
    rcases eq_or_ne f .u with rfl | hf
    · exact huu
    · rw [huflag f hf, getFlag_withFlag, if_neg hf, if_neg hf, getFlag_withFlag]
      rfl

/-- Settles O37: an interrupt entry is a handler's entry with its count in CYC; it stacks the I it finds, which RTI
restores. -/
theorem interruptEntrySavesAndMasks : Obligations.InterruptEntrySavesAndMasks := by
  refine ⟨fun s vector cycles => ?entry, fun s hi => ?stacked⟩
  case entry =>
    obtain ⟨-, hea, hrel, hfetched, hticks, hparams, hschedule, hgeometry⟩ :=
      keepsDispatch_enterHandler s vector false
    obtain ⟨hsp, hb, hu, hi, hpc, hregs, hflags, hstores⟩ := entersHandler_enterInterrupt s vector cycles
    rw [withFlag_u_withFlag_b] at hstores
    exact ⟨_, rfl, hsp, hb, hu, hi, rfl, hpc, hregs, hflags, hstores, hea, hrel, hfetched, hticks, hparams, hschedule,
      hgeometry⟩
  case stacked =>
    have henters : EntersHandler s Config.irqVector false (irq s) := by
      rw [irq, if_pos hi]
      exact entersHandler_enterInterrupt s _ _
    obtain ⟨hp, -⟩ := henters.memRead_stack
    obtain ⟨u, hu, -, -, hflag⟩ := henters.exec_rti
    have hstacked : getFlag (memRead (irq s) (stackSlot (s.sp - 2))) .i = false := by
      rw [hp, getFlag_withFlag, getFlag_withFlag]
      exact hi
    exact ⟨hstacked, u, hu, (hflag .i).trans hi⟩

/-- Settles O38: RTI pops what the entry pushed, with B clear and U set. -/
theorem rtiUndoesInterruptEntry : Obligations.RtiUndoesInterruptEntry := by
  intro s vector cycles
  obtain ⟨u, hu, hpc, hregs, hflag⟩ := (entersHandler_enterInterrupt s vector cycles).exec_rti
  refine ⟨u, hu, hpc, hregs, fun f hf hne => ?keeps, hflag .b, hflag .u⟩
  case keeps => rw [hflag, if_neg hne, if_neg (List.ne_of_not_mem_cons hf)]

end Sys2Proof.Machine
end

section
/-! The flag instructions and NOP (47_stack_flags.md R249 to R255, 48_system.md R270): one flag is written, or none. -/

namespace Sys2Proof.Machine

/-- An operation that writes one flag, other than U. -/
theorem perform_setFlag (s : State) (o : Op) {f : Flag} (hf : f ≠ .u) (v : Bool) :
    ∃ t, perform s o .imp (fun d => d.setFlag f v) = .next t ∧ t.flag f = v ∧ RunsOn s o .imp [] [f] [] t := by
  obtain ⟨d, t, -, ht, hrun, -, hflag⟩ :=
    perform_spec s o .imp (fun d => d.setFlag f v) fun d _ => (Leaves.refl d).setFlag hf v
  exact ⟨t, ht, (hflag f).trans (by simp), hrun⟩

/-- Settles O28: each operation writes its flag alone, and the gate of `irq` reads the I it leaves. -/
theorem flagInstructionsChangeOneFlag : Obligations.FlagInstructionsChangeOneFlag := by
  refine ⟨?rows, fun s t h => ?cli, fun s t h => ?sei, fun s m d => ⟨?add, ?subtract⟩⟩
  case rows =>
    simp only [flagInstructions, List.forall_mem_cons]
    exact ⟨⟨rfl, fun s => perform_setFlag s .clc (by decide) false⟩,
      ⟨rfl, fun s => perform_setFlag s .sec (by decide) true⟩,
      ⟨rfl, fun s => perform_setFlag s .cli (by decide) false⟩,
      ⟨rfl, fun s => perform_setFlag s .sei (by decide) true⟩,
      ⟨rfl, fun s => perform_setFlag s .cld (by decide) false⟩,
      ⟨rfl, fun s => perform_setFlag s .sed (by decide) true⟩,
      ⟨rfl, fun s => perform_setFlag s .clv (by decide) false⟩, List.forall_mem_nil _⟩
  case cli =>
    obtain ⟨u, hu, hflag, -⟩ := perform_setFlag s .cli (f := .i) (by decide) false
    cases h.symm.trans hu
    obtain ⟨hentered, -⟩ := irqIsGatedAndNmiIsNot t
    exact hentered hflag
  case sei =>
    obtain ⟨u, hu, hflag, -⟩ := perform_setFlag s .sei (f := .i) (by decide) true
    cases h.symm.trans hu
    obtain ⟨-, hdiscarded, -⟩ := irqIsGatedAndNmiIsNot t
    exact hdiscarded hflag
  case add => rw [addWithCarry_setFlag_d]; rfl
  case subtract => rw [subtractWithCarry_setFlag_d]; rfl

/-- An instruction has one byte at least (R100). -/
theorem exists_lengthAt_eq_succ (b0 : Byte) : ∃ n, lengthAt b0 = n + 1 := by
  cases he : findEntry b0 with
  | some e => exact ⟨_, (lengthAt_of_some he).trans (Nat.add_comm ..)⟩
  | none => exact ⟨0, lengthAt_of_none he⟩

/-- Only 0xEA is read as a NOP: an instruction read is encoded as the bytes it was read from, and NOP as 0xEA alone. -/
theorem decodeBytes_eq_nop_iff (b0 b1 b2 : Byte) : decodeBytes b0 b1 b2 = .nop ↔ b0 = 0xEA := by
  constructor
  · intro h
    have hbytes := encodeReturnsTheBytesRead b0 b1 b2
    obtain ⟨n, hn⟩ := exists_lengthAt_eq_succ b0
    rw [h, hn, List.take_succ_cons] at hbytes
    exact (List.head_eq_of_cons_eq hbytes).symm
  · rintro rfl
    rfl

/-- Settles O31: the operation changes nothing, so what is left is the dispatch. -/
theorem nopOnlyAdvances : Obligations.NopOnlyAdvances := by
  refine ⟨⟨rfl, rfl⟩, decodeBytes_eq_nop_iff, fun s => ?_⟩
  obtain ⟨t, ht, -, -, hrun⟩ := perform_leaves (s := s) (o := .nop) (m := .imp) (f := opNop) rfl (Leaves.refl _)
  exact ⟨t, ht, hrun⟩

end Sys2Proof.Machine
end

section
/-! DCP, ISB and SLO (49_illegal.md R278 to R280): a byte is stored at the effective address, and then compared with,
subtracted from or ored into A. -/

namespace Sys2Proof.Machine

@[simp] theorem flag_memWrite (s : State) (a : Word) (v : Byte) (f : Flag) : (memWrite s a v).flag f = s.flag f := by
  simp [State.flag]

/-- DCP's operation on the state the dispatch leaves (R278). -/
theorem opDcp_dispatched (s : State) (base : Nat) (m : Operand) : opDcp m (dispatched s base m) =
    (memWrite (dispatched s base m) (targetAddress s m) (sourceOperand s m - 1)).compare s.a
      (sourceOperand s m - 1) := by
  simp only [opDcp, operandValue_dispatched, dispatched_ea, dispatched_a]

/-- Z and N are read off the flags. -/
theorem ShowsZN.of_flags {v : Byte} {t u : State} (h : ShowsZN v u) (hflag : ∀ f, t.flag f = u.flag f) :
    ShowsZN v t := by
  obtain ⟨hz, hn⟩ := h
  exact ⟨(hflag .z).trans hz, (hflag .n).trans hn⟩

/-- Settles O32: the operand less one is stored, and A is compared with it. -/
theorem dcpDecrementsThenCompares : Obligations.DcpDecrementsThenCompares := by
  refine ⟨rfl, rfl, fun m s => ?_⟩
  obtain ⟨t, ht, -, hflag, hrun⟩ := perform_leaves (o := .dcp) (opDcp_dispatched s _ m)
    ((Leaves.store _ _ _).trans (leaves_compare _ _ _))
  simp only [State.flag_compare] at hflag
  exact ⟨t, sourceOperand s m - 1, ht, BitVec.eq_of_toNat_eq (toNat_sub_one _), hflag .c,
    (hflag .z).trans (difference_beq_zero _ _), (hflag .n).trans (difference_bit7 _ _), hrun⟩

/-- SBC's assignments for a byte in numbers, as the instruction makes them for an immediate (R193). -/
theorem subtractWithCarry_spec (s : State) (m : Byte) :
    let t := s.subtractWithCarry m
    (t.a.toNat : Int) = ((s.a.toNat : Int) - m.toNat - (1 - carryNat (s.flag .c) : Nat)) % 256 ∧
      t.flag .c = decide (m.toNat + (1 - carryNat (s.flag .c)) ≤ s.a.toNat) ∧
      t.flag .v = outOfSignedRange (s.a.toInt - m.toInt - (1 - carryNat (s.flag .c) : Nat)) ∧ ShowsZN t.a t := by
  obtain ⟨-, -, hsbc⟩ := sbcSubtractsWithBorrow
  obtain ⟨t, ht, ha, hc, hv, ⟨hz, hn⟩, -⟩ := hsbc (.imm m) s
  have hta : t.a = (s.subtractWithCarry m).a := by
    cases ht
    simp [runEntry, opSbc, operandValue]
  have htflag {f : Flag} (hf : f ≠ .u) : t.flag f = (s.subtractWithCarry m).flag f := by
    cases ht
    simp [runEntry, opSbc, operandValue, hf]
  rw [hta] at ha hz hn
  rw [htflag (by decide)] at hc hv hz hn
  exact ⟨ha, hc, hv, hz, hn⟩

theorem leaves_subtractWithCarry (s : State) (m : Byte) :
    Leaves [.a] [.c, .z, .v, .n] [] s (s.subtractWithCarry m) := by
  rw [subtractWithCarry_eq_addWithCarry]
  exact leaves_addWithCarry s _

/-- ISB's operation on the state the dispatch leaves (R279). -/
theorem opIsb_dispatched (s : State) (base : Nat) (m : Operand) : opIsb m (dispatched s base m) =
    (memWrite (dispatched s base m) (targetAddress s m) (sourceOperand s m + 1)).subtractWithCarry
      (sourceOperand s m + 1) := by
  simp only [opIsb, operandValue_dispatched, dispatched_ea]

/-- Settles O33: the operand plus one is stored, and subtracted from the A and C the store leaves alone. -/
theorem isbIncrementsThenSubtracts : Obligations.IsbIncrementsThenSubtracts := by
  refine ⟨rfl, rfl, fun m s => ?_⟩
  obtain ⟨t, ht, hreg, hflag, hrun⟩ := perform_leaves (o := .isb) (opIsb_dispatched s _ m)
    ((Leaves.store _ _ _).trans (leaves_subtractWithCarry _ _))
  obtain ⟨ha, hc, hv, hzn⟩ := subtractWithCarry_spec (memWrite (dispatched s (baseCycles s.params .isb m.mode) m)
    (targetAddress s m) (sourceOperand s m + 1)) (sourceOperand s m + 1)
  rw [← hflag] at hc hv
  have hta := hreg .a
  simp only [State.reg] at hta
  rw [← hta] at ha hzn
  simp only [flag_memWrite, memWrite_a, dispatched_a, flag_dispatched, reduceCtorEq, if_false] at ha hc hv
  exact ⟨t, sourceOperand s m + 1, ht, BitVec.eq_of_toNat_eq (BitVec.toNat_add _ 1), ha, hc, hv, hzn.of_flags hflag,
    hrun⟩

/-- SLO's operation on the state the dispatch leaves (R280). -/
theorem opSlo_dispatched (s : State) (base : Nat) (m : Operand) {v : Byte} {c : Bool}
    (h : shiftLeft (sourceOperand s m) = (v, c)) : opSlo m (dispatched s base m) =
    (((memWrite (dispatched s base m) (targetAddress s m) v).setFlag .c c).setA (s.a ||| v)).setZN (s.a ||| v) := by
  obtain ⟨rfl, rfl⟩ := Prod.mk.inj h
  simp only [opSlo, operandValue_dispatched, dispatched_ea, dispatched_a, memWrite_a]

/-- Settles O34: the shifted operand is stored and ored into A, and C is the bit moved out. -/
theorem sloShiftsThenOrs : Obligations.SloShiftsThenOrs := by
  refine ⟨rfl, rfl, fun m s => ?_⟩
  obtain ⟨t, ht, hreg, hflag, hrun⟩ := perform_leaves (o := .slo)
    (opSlo_dispatched s _ m (shiftLeft_eq (sourceOperand s m)))
    ((((Leaves.store _ _ _).setFlag (f := .c) (by decide) _).setReg .a _).setZN _)
  have ha : t.a = s.a ||| BitVec.ofNat 8 (2 * (sourceOperand s m).toNat) := hreg .a
  have hc : t.flag .c = decide (0x80 ≤ (sourceOperand s m).toNat) := (hflag .c).trans (by simp)
  have hzn : ShowsZN t.a t := by
    rw [ha]
    exact (showsZN_setZN _ _).of_flags hflag
  exact ⟨t, _, ht, rfl, hc, fun k => by rw [ha, BitVec.getLsbD_or], hzn, hrun⟩

end Sys2Proof.Machine
end

section
/-! CYC and TICKS: an operation neither reads nor writes them, so an instruction does the same whatever they hold, and
its base count enters its cost alone (40_addressing_modes.md R130, R131). -/

namespace Sys2Proof.Machine

/-- The machine with its two counters set. -/
def State.setClock (s : State) (cyc ticks : Nat) : State := (s.setCyc cyc).setTicks ticks

section
variable (s : State) (c k : Nat)

/-! Every state operation commutes with setting the counters. -/

@[simp] theorem memRead_setClock (a : Word) : memRead (s.setClock c k) a = memRead s a := by
  simp [State.setClock]

@[simp] theorem memWrite_setClock (a : Word) (v : Byte) :
    memWrite (s.setClock c k) a v = (memWrite s a v).setClock c k := by
  rw [State.setClock, memWrite_setTicks, memWrite_setCyc, State.setClock]

@[simp] theorem effectiveAddress_setClock (m : Operand) :
    effectiveAddress (s.setClock c k) m = effectiveAddress s m :=
  effectiveAddress_congr rfl rfl rfl rfl (memRead_setClock s c k) m

@[simp] theorem crossesPage_setClock (m : Operand) : crossesPage (s.setClock c k) m = crossesPage s m := by
  have hbase := baseAddress_congr (memRead_setClock s c k) m
  cases m <;> simp [crossesPage, hbase]

theorem resolve_setClock (m : Operand) : resolve (s.setClock c k) m = (resolve s m).setClock c k := by
  cases m <;> simp only [resolve, effectiveAddress_setClock] <;> rfl

@[simp] theorem operandValue_setClock (m : Operand) : operandValue (s.setClock c k) m = operandValue s m := by
  cases m <;> simp only [operandValue, memRead_setClock] <;> rfl

theorem setFlag_setClock (f : Flag) (v : Bool) : (s.setClock c k).setFlag f v = (s.setFlag f v).setClock c k := rfl

theorem compare_setClock (r m : Byte) : (s.setClock c k).compare r m = (s.compare r m).setClock c k := by
  simp only [State.compare, setFlag_setClock]

theorem addWithCarry_setClock (m : Byte) : (s.setClock c k).addWithCarry m = (s.addWithCarry m).setClock c k := by
  have hflag : (s.setClock c k).flag .c = s.flag .c := rfl
  have ha : (s.setClock c k).a = s.a := rfl
  simp only [State.addWithCarry, hflag, ha, setFlag_setClock]
  rfl

theorem subtractWithCarry_setClock (m : Byte) :
    (s.setClock c k).subtractWithCarry m = (s.subtractWithCarry m).setClock c k := by
  rw [subtractWithCarry_eq_addWithCarry, addWithCarry_setClock, subtractWithCarry_eq_addWithCarry]

theorem shiftResult_setClock (m : Operand) (r : Byte × Bool) :
    shiftResult (s.setClock c k) m r = (shiftResult s m r).setClock c k := by
  cases m
  case imp => rfl
  all_goals exact memWrite_setClock ((s.setFlag .c r.2).setZN r.1) c k s.ea r.1

theorem branch_setClock (b : Bool) :
    branch (s.setClock c k) b = ((branch s b).1.setClock c k, (branch s b).2) := by
  cases b <;> rfl

theorem push_setClock (v : Byte) : push (s.setClock c k) v = (push s v).setClock c k := by
  rw [push_eq, memWrite_setClock, push_eq]
  rfl

theorem push16_setClock (v : Word) : push16 (s.setClock c k) v = (push16 s v).setClock c k := by
  rw [push16, push_setClock, push_setClock, push16]

theorem enterHandler_setClock (vector : Word) (brk : Bool) :
    enterHandler (s.setClock c k) vector brk = (enterHandler s vector brk).setClock c k := by
  have hflags (u : State) (f g : Flag) (v w : Bool) :
    ((u.setClock c k).setFlag f v).setFlag g w = ((u.setFlag f v).setFlag g w).setClock c k := rfl
  have hp (u : State) : (u.setClock c k).p = u.p := rfl
  have hpc (u : State) (v : Word) : (u.setClock c k).setPc v = (u.setPc v).setClock c k := rfl
  simp only [enterHandler, push16_setClock, hflags, push_setClock, hp, hpc, memRead16, memRead_setClock]
  rfl

/-- No operation reads or writes CYC or TICKS. -/
theorem operationOf_setClock (o : Op) (m : Operand) :
    operationOf o m (s.setClock c k) = ((operationOf o m s).1.setClock c k, (operationOf o m s).2) := by
  cases o with
  | tax | tay | txa | tya | tsx | txs | inx | iny | dex | dey | jmp | clc | sec | cli | sei | cld | sed | clv
  | nop => rfl
  | lda | ldx | ldy | lax | and | ora | eor | bit =>
    simp only [operationOf, opLda, opLdx, opLdy, opLax, opAnd, opOra, opEor, opBit, operandValue_setClock]
    rfl
  | adc | sbc =>
    simp only [operationOf, opAdc, opSbc, operandValue_setClock, addWithCarry_setClock, subtractWithCarry_setClock]
  | cmp | cpx | cpy =>
    simp only [operationOf, opCmp, opCpx, opCpy, operandValue_setClock, compare_setClock]
    rfl
  | sta | stx | sty | sax =>
    simp only [operationOf, opSta, opStx, opSty, opSax, memWrite_setClock]
    rfl
  | inc | dec | slo =>
    simp only [operationOf, opInc, opDec, opSlo, operandValue_setClock, memWrite_setClock]
    rfl
  | dcp | isb =>
    simp only [operationOf, opDcp, opIsb, operandValue_setClock, memWrite_setClock, compare_setClock,
      subtractWithCarry_setClock]
    rfl
  | asl | lsr => simp only [operationOf, opAsl, opLsr, operandValue_setClock, shiftResult_setClock]
  | rol | ror =>
    simp only [operationOf, opRol, opRor, operandValue_setClock, shiftResult_setClock]
    rfl
  | bcc | bcs | beq | bne | bmi | bpl | bvc | bvs => exact branch_setClock s c k _
  | jsr => simp only [operationOf, opJsr, push16_setClock]; rfl
  | rts => simp only [operationOf, opRts_eq, memRead_setClock]; rfl
  | pha => simp only [operationOf, opPha, push_setClock]; rfl
  | pla => simp only [operationOf, opPla, pop_eq, memRead_setClock]; rfl
  | php => simp only [operationOf, opPhp, push_setClock]; rfl
  | plp => simp only [operationOf, opPlp, popStatus_eq, memRead_setClock]; rfl
  | brk => exact congrArg (·, 0) (enterHandler_setClock (s.setPc (s.pc + 1)) c k _ _)
  | rti => simp only [operationOf, opRti, returnFromHandler_eq, memRead_setClock]; rfl

/-- The cycles an instruction adds to its base count: a page crossing and what a taken branch adds (R131). -/
def addedCycles (s : State) (req : Bool) (o : Op) (m : Operand) : Nat :=
  pageCycle req (crossesPage (atOperands s) m) + (operationOf o m (dispatched s 0 m)).2

/-- What running an entry leaves: CYC and TICKS of before do not matter, and the base count enters the cost alone. -/
theorem runEntry_setClock (base : Nat) (req : Bool) (o : Op) (m : Operand) :
    runEntry (s.setClock c k) base req m (operationOf o m) =
      (operationOf o m (dispatched s 0 m)).1.setClock (base + addedCycles s req o m) k := by
  have hd : dispatched (s.setClock c k) base m = (dispatched s 0 m).setClock base k :=
    resolve_setClock (beginDispatch s 0) base k m
  have hcross : crossesPage (beginDispatch (s.setClock c k) base) m = crossesPage (atOperands s) m := by
    rw [crossesPage_beginDispatch]
    exact crossesPage_setClock (atOperands s) c k m
  simp only [runEntry, hd, hcross, operationOf_setClock, addedCycles, ← Nat.add_assoc]
  rfl

/-- The same for the CYC and TICKS the machine holds. -/
theorem runEntry_eq (base : Nat) (req : Bool) (o : Op) (m : Operand) :
    runEntry s base req m (operationOf o m) =
      (operationOf o m (dispatched s 0 m)).1.setClock (base + addedCycles s req o m) s.ticks :=
  runEntry_setClock s s.cyc s.ticks base req o m

end

/-! Undefined bytes (R285). -/

/-- Without a supplied entry an undefined byte is refused by name. -/
theorem execUndefined_of_none {b : Byte} {s : State} (h : suppliedEntry s.params b = none) :
    execUndefined b s = .refused (.undefinedOpcode b) := by
  rw [execUndefined, h]

/-- The operand form of a supplied entry, from the bytes after the opcode byte. -/
def suppliedOperand (s : State) (e : DecodeEntry) : Operand :=
  Operand.ofBytes e.mode (memRead s (s.pc + 1)) (memRead s (s.pc + 2))

/-- A supplied entry runs as an entry of the table does, with its own base count (log entry 4). -/
theorem execUndefined_of_some {b : Byte} {s : State} {e : DecodeEntry} (h : suppliedEntry s.params b = some e) :
    execUndefined b s = .next (runEntry s e.cycles (requestsPageCycle e.op) (suppliedOperand s e)
      (operationOf e.op (suppliedOperand s e))) := by
  rw [execUndefined, h]
  rfl

/-- An instruction does the same whatever CYC and TICKS hold. -/
theorem exec_setClock {i : Instr} {s t : State} (h : exec i s = .next t) (c k : Nat) :
    exec i (s.setClock c k) = .next (t.setTicks k) := by
  have hrun (base : Nat) (o : Op) (m : Operand) :
      runEntry (s.setClock c k) base (requestsPageCycle o) m (operationOf o m) =
        (runEntry s base (requestsPageCycle o) m (operationOf o m)).setTicks k := by
    rw [runEntry_setClock, runEntry_eq]
    rfl
  cases hop : i.op with
  | some o =>
    rw [exec_of_op hop] at h ⊢
    cases h
    exact congrArg Host.Outcome.next (hrun _ o i.operand)
  | none =>
    obtain ⟨b, rfl⟩ := eq_undefined_of_op_none hop
    change execUndefined b s = .next t at h
    cases he : suppliedEntry s.params b with
    | none =>
      rw [execUndefined_of_none he] at h
      cases h
    | some e =>
      rw [execUndefined_of_some he] at h
      cases h
      have hoperand : suppliedOperand (s.setClock c k) e = suppliedOperand s e := by
        simp only [suppliedOperand, memRead_setClock]
        rfl
      have hentry := execUndefined_of_some (s := s.setClock c k) he
      rwa [hoperand, hrun] at hentry

/-- Settles O35: the base count enters the cost alone, and otherwise the entry runs as the instruction built from it. -/
theorem undefinedBytesRefuseOrRunTheirEntry : Obligations.UndefinedBytesRefuseOrRunTheirEntry := by
  refine fun b s => ⟨execUndefined_of_none, fun e he => ⟨_, execUndefined_of_some he⟩, fun e he hmode => ?_⟩
  have hop := Instr.op_build e.op e.mode (memRead s (s.pc + 1)) (memRead s (s.pc + 2))
  have hoperand := Instr.operand_build hmode (memRead s (s.pc + 1)) (memRead s (s.pc + 2))
  have ht := execUndefined_of_some he
  have hu := exec_of_op hop s
  rw [suppliedOperand, runEntry_eq] at ht
  rw [hoperand, performWith, Operand.mode_ofBytes, runEntry_eq] at hu
  refine ⟨_, _, ht, hu, rfl, ?cost⟩
  simp only [State.setClock, State.setTicks_cyc, State.setCyc_cyc]
  omega

end Sys2Proof.Machine
end

section
/-! Ticks (70_reset_and_hazards.md R325 to R331): an instruction does all its work on the tick that dispatches it, then
counts down, and the SystemClock ticks the CPU every third time. -/

namespace Sys2Proof.Machine

section
variable {s t : State}

/-- An idle CPU runs an instruction and counts the first of its cycles (R325). -/
theorem tick_of_idle (hcyc : s.cyc = 0) (h : runInstruction s = .next t) : tick s = .next (countDown t) := by
  rw [tick, if_pos hcyc, h]

/-- A busy CPU counts down (R325). -/
theorem tick_of_busy (hc : cartridgeOk s = true) (hcyc : s.cyc ≠ 0) : tick s = .next (countDown s) := by
  rw [tick, if_neg hcyc, withCartridge_of_ok hc]

/-- Every third SystemClock tick ticks the CPU (R330). -/
theorem sysclockTick_of_tick (hticks : s.ticks % 3 = 0) (h : tick s = .next t) :
    sysclockTick s = .next (countTick t) := by
  rw [sysclockTick, Config.clockRatio, if_pos hticks, h]

/-- The other SystemClock ticks count themselves alone (R330). -/
theorem sysclockTick_of_skip (hc : cartridgeOk s = true) (hticks : s.ticks % 3 ≠ 0) :
    sysclockTick s = .next (countTick s) := by
  rw [sysclockTick, Config.clockRatio, if_neg hticks, withCartridge_of_ok hc]

/-- Settles O55: the two kinds of tick in their two cases each. -/
theorem ticksDispatchThenCountDown : Obligations.TicksDispatchThenCountDown := fun _ _ hc =>
  ⟨tick_of_idle, tick_of_busy hc, sysclockTick_of_tick, sysclockTick_of_skip hc⟩

/-- An instruction that completes had a cartridge to run on. -/
theorem cartridgeOk_of_runInstruction (h : runInstruction s = .next t) : cartridgeOk s = true := by
  cases hc : cartridgeOk s with
  | true => rfl
  | false =>
    rw [runInstruction_of_bad hc] at h
    cases h

/-- An instruction stores through the bus alone. -/
theorem storedFrom_runInstruction (h : runInstruction s = .next t) : StoredFrom s t := by
  obtain ⟨o, m, base, rfl, -⟩ := exec_next (withCartridge_next h)
  exact storedFrom_runEntry s base _ o m

/-- Whether a cartridge is acceptable is a matter of its geometry (R73). -/
theorem cartridgeOk_of_geometry (h : geometry t = geometry s) : cartridgeOk t = cartridgeOk s := by
  unfold geometry at h
  unfold cartridgeOk
  cases hs : s.cart <;> cases ht : t.cart <;> simp [hs, ht] at h
  · rfl
  · obtain ⟨hid, hbanks, -⟩ := h
    simp only [Cartridge.supported, hid, hbanks]

/-- An instruction leaves the cartridge one the model has a policy for. -/
theorem cartridgeOk_after_runInstruction (h : runInstruction s = .next t) : cartridgeOk t = true :=
  (cartridgeOk_of_geometry (storedFrom_runInstruction h).geometry).trans (cartridgeOk_of_runInstruction h)

theorem tickTimes_succ {u : State} (h : tick s = .next u) (k : Nat) : tickTimes (k + 1) s = tickTimes k u := by
  rw [tickTimes, h]

/-- One count and then `k` more are `k + 1` counts. -/
theorem countDown_countDown (s : State) (k : Nat) :
    (countDown s).setCyc ((countDown s).cyc - k) = s.setCyc (s.cyc - (k + 1)) := by
  rw [countDown, State.setCyc_cyc, Nat.sub_sub, Nat.add_comm 1]
  rfl

/-- Ticks of a busy CPU count down and do nothing else. -/
theorem tickTimes_of_busy {k : Nat} (hc : cartridgeOk s = true) (hk : k ≤ s.cyc) :
    tickTimes k s = .next (s.setCyc (s.cyc - k)) := by
  induction k generalizing s with
  | zero => rfl
  | succ k ih =>
    have hdown : k ≤ (countDown s).cyc := Nat.le_sub_one_of_lt hk
    rw [tickTimes_succ (tick_of_busy hc (Nat.ne_zero_of_lt hk)), ih (s := countDown s) hc hdown,
      countDown_countDown]

/-- Settles O56: the first tick dispatches and the others count down. -/
theorem instructionOfCostNTakesNTicks : Obligations.InstructionOfCostNTakesNTicks := by
  intro s t k hidle hrun h1 hk
  obtain ⟨k, rfl⟩ := Nat.exists_eq_add_one.mpr h1
  have hc := cartridgeOk_after_runInstruction hrun
  rw [tickTimes_succ (tick_of_idle hidle hrun), tickTimes_of_busy (s := countDown t) hc (Nat.le_sub_one_of_lt hk),
    countDown_countDown]

/-- The instruction at PC does the same whatever CYC and TICKS hold. -/
theorem runInstruction_setClock (h : runInstruction s = .next t) (c k : Nat) :
    runInstruction (s.setClock c k) = .next (t.setTicks k) := by
  have hc : cartridgeOk (s.setClock c k) = true := cartridgeOk_of_runInstruction (s := s) h
  have hfetch : fetchInstr (s.setClock c k) = fetchInstr s := by
    simp only [fetchInstr, memRead_setClock]
    rfl
  rw [runInstruction, withCartridge_of_ok hc, hfetch]
  exact exec_setClock (withCartridge_next h) c k

theorem ticks_of_runInstruction (h : runInstruction s = .next t) : t.ticks = s.ticks := by
  have h' : runInstruction s = .next (t.setTicks s.ticks) := runInstruction_setClock h s.cyc s.ticks
  have heq := Host.Outcome.next.inj (h.symm.trans h')
  rw [heq, State.setTicks_ticks]

end

/-- How many SystemClock ticks come before the next CPU tick (R330). -/
def ticksToCpu (s : State) : Nat := (3 - s.ticks % 3) % 3

section
variable {s t : State}

/-- The CPU is ticked and idle (R331). -/
theorem willDispatch_iff : willDispatch s = true ↔ s.ticks % 3 = 0 ∧ s.cyc = 0 := by
  simp only [willDispatch, Bool.and_eq_true, decide_eq_true_eq]
  exact Iff.rfl

/-- A SystemClock tick that dispatches nothing counts itself, and counts CYC down when it ticks the CPU. -/
theorem sysclockTick_of_not_willDispatch (hc : cartridgeOk s = true) (h : willDispatch s = false) :
    ∃ cyc, sysclockTick s = .next (s.setClock cyc (s.ticks + 1)) ∧
      ((s.ticks % 3 = 0 ∧ cyc + 1 = s.cyc) ∨ (s.ticks % 3 ≠ 0 ∧ cyc = s.cyc)) := by
  by_cases hticks : s.ticks % 3 = 0
  · have hcyc : s.cyc ≠ 0 := fun hidle => by
      rw [willDispatch_iff.mpr ⟨hticks, hidle⟩] at h
      cases h
    exact ⟨s.cyc - 1, sysclockTick_of_tick hticks (tick_of_busy hc hcyc),
      .inl ⟨hticks, Nat.sub_add_cancel (Nat.pos_of_ne_zero hcyc)⟩⟩
  · exact ⟨s.cyc, sysclockTick_of_skip hc hticks, .inr ⟨hticks, rfl⟩⟩

/-- The first loop of `advance` counts down to the dispatch of the instruction at PC. -/
theorem tickToDispatch_spec {k : Nat} (hrun : runInstruction s = .next t) (hk : ticksToCpu s + 3 * s.cyc < k) :
    ∃ n, tickToDispatch k s = .next (t.setClock (t.cyc - 1) (s.ticks + n)) ∧ (s.ticks + n) % 3 = 1 := by
  induction k generalizing s t with
  | zero => omega
  | succ k ih =>
    rw [tickToDispatch]
    cases hd : willDispatch s with
    | true =>
      obtain ⟨hticks, hcyc⟩ := willDispatch_iff.mp hd
      rw [sysclockTick_of_tick hticks (tick_of_idle hcyc hrun), ← ticks_of_runInstruction hrun]
      refine ⟨1, rfl, ?mod⟩
      rw [ticks_of_runInstruction hrun]
      omega
    | false =>
      obtain ⟨cyc, htick, hnext⟩ := sysclockTick_of_not_willDispatch (cartridgeOk_of_runInstruction hrun) hd
      have hk' : ticksToCpu (s.setClock cyc (s.ticks + 1)) + 3 * cyc < k := by
        simp only [ticksToCpu, State.setClock, State.setTicks_ticks] at hk ⊢
        omega
      obtain ⟨n, hn, hmod⟩ := ih (runInstruction_setClock hrun cyc (s.ticks + 1)) hk'
      have hadd : (s.setClock cyc (s.ticks + 1)).ticks + n = s.ticks + (n + 1) := Nat.add_right_comm ..
      rw [hadd] at hn hmod
      rw [htick]
      exact ⟨n + 1, hn, hmod⟩

/-- An idle CPU is ticked no more. -/
theorem tickToIdle_of_idle (h : s.cyc = 0) (k : Nat) : tickToIdle k s = .next (s.setClock 0 s.ticks) := by
  have hself : s.setClock 0 s.ticks = s := by
    rw [← h]
    rfl
  rw [hself]
  cases k with
  | zero => rfl
  | succ k => rw [tickToIdle, if_pos h]

/-- The second loop of `advance` counts CYC down to zero. -/
theorem tickToIdle_spec {k : Nat} (hc : cartridgeOk s = true)
    (hk : s.cyc ≠ 0 → ticksToCpu s + 3 * s.cyc ≤ k + 2) :
    ∃ n, tickToIdle k s = .next (s.setClock 0 (s.ticks + n)) := by
  induction k generalizing s with
  | zero => exact ⟨0, tickToIdle_of_idle (by omega) 0⟩
  | succ k ih =>
    rcases eq_or_ne s.cyc 0 with hcyc | hcyc
    · exact ⟨0, tickToIdle_of_idle hcyc (k + 1)⟩
    · obtain ⟨cyc, htick, hnext⟩ := sysclockTick_of_not_willDispatch hc (by simp [willDispatch, hcyc])
      have hk' : cyc ≠ 0 → ticksToCpu (s.setClock cyc (s.ticks + 1)) + 3 * cyc ≤ k + 2 := by
        simp only [ticksToCpu, State.setClock, State.setTicks_ticks] at hk ⊢
        omega
      obtain ⟨n, hn⟩ := ih (s := s.setClock cyc (s.ticks + 1)) hc hk'
      have hadd : (s.setClock cyc (s.ticks + 1)).ticks + n = s.ticks + (n + 1) := Nat.add_right_comm ..
      rw [hadd] at hn
      rw [tickToIdle, if_neg hcyc, htick]
      exact ⟨n + 1, hn⟩

/-- `advance` runs the instruction at PC and counts all its cycles. -/
theorem advanceTicks_spec (hrun : runInstruction s = .next t) :
    ∃ n, advanceTicks s = .next (t.setClock 0 (s.ticks + n)) := by
  have hwait : ticksToCpu s < 3 := Nat.mod_lt _ (by decide)
  obtain ⟨n, hdispatch, hmod⟩ := tickToDispatch_spec (k := 3 * s.cyc + 3) hrun (by omega)
  obtain ⟨j, hidle⟩ := tickToIdle_spec (s := t.setClock (t.cyc - 1) (s.ticks + n)) (k := 3 * (t.cyc - 1))
    (cartridgeOk_after_runInstruction (t := t) hrun) fun _ => by
      simp only [ticksToCpu, State.setClock, State.setTicks_ticks, State.setTicks_cyc, State.setCyc_cyc]
      omega
  have hadd : (t.setClock (t.cyc - 1) (s.ticks + n)).ticks + j = s.ticks + (n + j) := Nat.add_assoc ..
  rw [hadd] at hidle
  rw [advanceTicks, Config.clockRatio, hdispatch]
  exact ⟨n + j, hidle⟩

/-- `advance` reports failure exactly at the sentinel (R340). -/
theorem advanceReport_eq_failure_iff : advanceReport s = .failure ↔ s.params.sentinel = some s.pc := by
  unfold advanceReport
  split <;> simp_all

/-- Settles O57: the ticks run the instruction once, and it leaves the sentinel, a parameter, alone. -/
theorem advanceIsOneStep : Obligations.AdvanceIsOneStep := by
  intro s t hrun _
  obtain ⟨n, hticks⟩ := advanceTicks_spec hrun
  have hparams : t.params = s.params := (storedFrom_runInstruction hrun).params
  refine ⟨n, _, by rw [advance, hticks]; rfl, ?report⟩
  rw [advanceReport_eq_failure_iff, ← hparams]
  rfl

end

end Sys2Proof.Machine
end

section
/-! The reset event (70_reset_and_hazards.md R320): the registers it assigns, and where it reads the vector. -/

namespace Sys2Proof.Machine

/-- The reset state has U alone set in P (R320). -/
theorem getFlag_resetStatus (f : Flag) : getFlag 0x20 f = decide (f = .u) := by
  cases f <;> decide

/-- A little-endian word from the two bytes its addresses reach (R88). -/
theorem memRead16_of_locate {s : State} {a : Word} {lo hi : Storage} (hlo : locate s a = lo)
    (hhi : locate s (a + 1) = hi) :
    (memRead16 s a).toNat = 256 * (readStorage s hi).toNat + (readStorage s lo).toNat := by
  rw [memRead16_toNat, memRead_of_locate hlo, memRead_of_locate hhi]

/-- The reset vector is read from PRG, in the last bytes of its window (R71, R320). -/
theorem resetVector_prg {s : State} {c : Cartridge} (hc : s.cart = some c) (hs : c.supported = true) :
    (memRead16 s Config.resetVector).toNat =
      256 * (c.prg.read (0xFFFD % prgWindow c)).toNat + (c.prg.read (0xFFFC % prgWindow c)).toNat := by
  rw [memRead16_toNat, memRead_prg hc (locate_prg hc hs (by decide)), memRead_prg hc (locate_prg hc hs (by decide))]
  rfl

/-- Settles O39: the event assigns every register, and the vector is read where the bus decoder leads. -/
theorem resetEventSetsTheEntryState : Obligations.ResetEventSetsTheEntryState := by
  intro s
  refine ⟨_, rfl, rfl, rfl, rfl, rfl, getFlag_resetStatus, rfl, rfl, rfl, rfl, memRead16_toNat s _,
    fun c hc hs hbank => ?one, fun c hc hs hbank => ?more, fun hc hp => ?dropped, fun hc hp => ?back,
    rfl, rfl, rfl, rfl, rfl, rfl, rfl⟩
  case one =>
    have h := resetVector_prg hc hs
    rwa [prgWindow, if_pos hbank] at h
  case more =>
    have h := resetVector_prg hc hs
    rwa [prgWindow, if_neg hbank] at h
  case dropped =>
    have hl (a : Word) (ha : 0x4000 ≤ a.toNat) : locate s a = .dropped :=
      (locate_unclaimed ha (.inr hc)).trans (if_pos hp)
    exact BitVec.eq_of_toNat_eq (memRead16_of_locate (hl _ (by decide)) (hl _ (by decide)))
  case back =>
    have hl (a : Word) (ha : 0x4000 ≤ a.toNat) : locate s a = .back a.toNat :=
      (locate_unclaimed ha (.inr hc)).trans (if_neg (by simp [hp]))
    exact memRead16_of_locate (hl _ (by decide)) (hl _ (by decide))

end Sys2Proof.Machine
end

section
/-! The host operations (70_reset_and_hazards.md R335, R336): loading a program and attaching a cartridge. -/

namespace Sys2Proof.Machine

/-- Bytes stored through the bus change the bytes their addresses reach, and nothing else (R336). -/
theorem leaves_storeBytes (s : State) (base : Word) (bytes : List Byte) :
    Leaves [] [] (programStores base bytes) s (storeBytes s base bytes) := by
  induction bytes generalizing s base with
  | nil => exact .refl s
  | cons b rest ih => exact (Leaves.store s base b).trans (ih _ _)

/-- An operation that writes no flag leaves P as it is. -/
theorem Leaves.p {regs : List Reg} {stores : List (Word × Byte)} {s t : State} (h : Leaves regs [] stores s t) :
    t.p = s.p := by
  refine eq_of_getFlag_eq fun f => ?_
  rcases eq_or_ne f .u with rfl | hf
  · exact h.u
  · exact h.flags f List.not_mem_nil hf

/-- Settles O58: the program's stores, then those of the vector. -/
theorem loadProgramStoresBytesAndVector : Obligations.LoadProgramStoresBytesAndVector := by
  intro s bytes base
  have h : Leaves [] [] ([(0xFFFD, hiByte base), (0xFFFC, loByte base)] ++ programStores base bytes) s
      (loadProgram s bytes base) :=
    ((leaves_storeBytes s base bytes).trans (.store _ _ _)).trans (.store _ _ _)
  exact ⟨_, rfl, h.stores, h.registers, h.p, h.pc, h.cyc, h.ea, h.rel, h.fetched, h.ticks, h.params, h.schedule,
    h.geometry⟩

/-- The cartridges rule R335 accepts. -/
theorem CartridgeImage.accepted_iff (c : CartridgeImage) : c.accepted = true ↔
    c.mapperId = 0 ∧ 1 ≤ c.prgBanks ∧ c.prg.length = c.prgBanks * 16384 ∧
      c.chr.length = (if c.chrBanks = 0 then 8192 else c.chrBanks * 8192) := by
  simp only [CartridgeImage.accepted, Bool.and_eq_true, decide_eq_true_eq, and_assoc]
  exact Iff.rfl

/-- The cartridge an image becomes when it is attached. -/
def CartridgeImage.cartridge (c : CartridgeImage) : Cartridge :=
  ⟨c.mapperId, c.prgBanks, c.chrBanks, Memory.ofBytes c.prg, Memory.ofBytes c.chr⟩

/-- An accepted image is attached (R335). -/
theorem attachCartridge_of_accepted {c : CartridgeImage} (h : c.accepted = true) (s : State) :
    attachCartridge c s = .next (s.setCart (some c.cartridge)) := if_pos h

/-- Any other image is refused by name (R335). -/
theorem attachCartridge_of_not_accepted {c : CartridgeImage} (h : ¬ c.accepted = true) (s : State) :
    attachCartridge c s = .refused .badCartridge := if_neg h

/-- An accepted image becomes a cartridge the model has a policy for (R73). -/
theorem CartridgeImage.supported_cartridge {c : CartridgeImage} (h : c.accepted = true) :
    c.cartridge.supported = true := by
  obtain ⟨hid, hbanks, -, -⟩ := c.accepted_iff.mp h
  simp [Cartridge.supported, CartridgeImage.cartridge, hid, hbanks]

/-- An array built from its bytes reads as them, and past them as unlisted. -/
theorem Memory.read_ofBytes (bytes : List Byte) (i : Nat) : (Memory.ofBytes bytes).read i = bytes.getD i 0x00 := by
  have h := Memory.read_ofBytesFrom 0 i bytes
  rwa [Nat.zero_add] at h

/-- Settles O59: the mapper leads the window to the bytes of the image, and its arrays are sound. -/
theorem attachedCartridgesAreReadThroughTheWindow : Obligations.AttachedCartridgesAreReadThroughTheWindow := by
  intro c s
  refine ⟨fun h => attachCartridge_of_not_accepted (mt c.accepted_iff.mp h) s, fun hid hbanks hprg hchr => ?_⟩
  have haccepted := c.accepted_iff.mpr ⟨hid, hbanks, hprg, hchr⟩
  have hattach := attachCartridge_of_accepted haccepted s
  have hs := CartridgeImage.supported_cartridge haccepted
  refine ⟨_, hattach, ?geometry, fun i hi => ?prg, fun i hi => ?chr, fun ⟨hstorage, hcycles⟩ =>
    ⟨storageSound_attachCartridge hstorage hattach, hcycles⟩⟩
  case geometry => simp [geometry, CartridgeImage.cartridge, hid]
  case prg =>
    have ha : (BitVec.ofNat 16 (0x8000 + i)).toNat = 0x8000 + i := Nat.mod_eq_of_lt (by omega)
    have hl := locate_prg (s := s.setCart (some c.cartridge)) (a := BitVec.ofNat 16 (0x8000 + i)) rfl hs (by omega)
    have hindex : (0x8000 + i) % prgWindow c.cartridge = if c.prgBanks = 1 then i % 16384 else i := by
      change (0x8000 + i) % (if c.prgBanks = 1 then 16384 else 32768) = _
      split <;> omega
    rw [memRead_prg rfl hl, ha, hindex]
    exact Memory.read_ofBytes c.prg _
  case chr =>
    have ha : (BitVec.ofNat 16 i).toNat = i := Nat.mod_eq_of_lt (by omega)
    rw [ppuRead_eq rfl hs, ha, if_pos (by omega)]
    exact congrArg _ (Memory.read_ofBytes c.chr i)

end Sys2Proof.Machine
end
